-- ==== Sys2Proof/Word.lean ====
section
/-! DEFINITION. The plain values the engine works on: command words, pin levels and directions, the
two channels and the three gain settings (spec 00 R9, R10, R14; 30 R102). -/

namespace Sys2Proof

/-- A command word: one length, 32 bits (R100). -/
abbrev Word := BitVec 32

/-- A pin level: `LOW = 0`, `HIGH = 1` (R9). There is no third level (R64). -/
inductive Level where
  | low
  | high
  deriving DecidableEq, Repr, Inhabited

/-- The bit a level stands for (R9). -/
def Level.bit : Level → Nat
  | .low => 0
  | .high => 1

/-- The level a bit stands for (R9). -/
def Level.ofBool : Bool → Level
  | false => .low
  | true => .high

/-- A pin direction: `0` = input, `1` = output (R42, R61). -/
inductive Dir where
  | input
  | output
  deriving DecidableEq, Repr, Inhabited

/-- The engine's two lines (R60): `PIN_DATA` names the one, `PIN_CLOCK` the other. -/
inductive Line where
  | data
  | clock
  deriving DecidableEq, Repr, Inhabited

/-- The source's ChannelSelector, "one of {A, B}" (R14, R102). -/
inductive Channel where
  | a
  | b
  deriving DecidableEq, Repr, Inhabited

/-- The source's GainSetting, `{G128, G64, G32}` (R14, R24). -/
inductive GainSetting where
  | g128
  | g64
  | g32
  deriving DecidableEq, Repr, Inhabited

/-- `truncdiv(a, b)`: the integer quotient rounded toward zero (R11). -/
abbrev truncdiv (a b : Int) : Int := Int.tdiv a b

end Sys2Proof
end

