-- ==== Sys2Proof/Config.lean ====
section
/-! DEFINITION. The implementation parameters, all twelve of spec 00 R5, with the defaults it fixes; and
the free values: what the spec leaves open, as constants without a body. -/

namespace Sys2Proof

/-- `AVG_ROUND`: how the AVGREAD quotient is brought to the fixed-point grid (R171, D6).
DESIGN CHOICE (log 11): the spec gives the default alone; the other three modes are the model's. -/
inductive Rounding where
  | towardZero
  | towardNegative
  | towardPositive
  | nearestEven
  deriving DecidableEq, Repr, Inhabited

/-- The parameters a model takes as arguments (R5), for which the rules hold. A set of values outside the
bounds is no value of this type: each bound is what a rule needs to be true, and names it (log 15).
They stand in State and no step writes them, so a statement about every state holds for every choice. -/
structure Params where
  /-- `SAMPLE_BITS`: the width of the sample on the wire, the pulse slots of a frame (R90). -/
  sampleBits : Nat
  /-- `SAMPLED_BITS`: the bits SHIFTIN samples, from the most significant down (R128). -/
  sampledBits : Nat
  /-- `ACC_W`: the width of `ACC` and of a raw sample, and so of the offsets and `RESULT` (R20, R26). -/
  accW : Nat
  /-- `SUM_W`: the width of `SUM` (R31). -/
  sumW : Nat
  /-- `PULSES(G128)` (R94, D1). -/
  pulses128 : Nat
  /-- `PULSES(G64)`. -/
  pulses64 : Nat
  /-- `PULSES(G32)`. -/
  pulses32 : Nat
  /-- `GAIN_A_RESET` (R24). -/
  gainAReset : GainSetting
  /-- `RESET_DELAY_US`, the argument of the one delay call in CONSTRUCT (R65). -/
  resetDelayUs : Nat
  /-- `DEFAULT_COUNT`, which the assembler supplies where no count is written (R108). -/
  defaultCount : Nat
  /-- `PIN_W`: the width of a pin identifier (R22, D3). -/
  pinW : Nat
  /-- `CNT_W`: the width of the count operand and of `CNT` (R20, D3). -/
  cntW : Nat
  /-- `FRAC_BITS`: the fractional bits of a calibrated result (R33). -/
  fracBits : Nat
  /-- `AVG_ROUND` (R171). -/
  avgRound : Rounding
  /-- The first slot of a frame is sampled, and none outside it (R90, R128). -/
  sampledSlots : 1 ≤ sampledBits ∧ sampledBits ≤ sampleBits
  /-- `BIT` is `u5` (R20). -/
  slotIndex : sampleBits ≤ 32
  /-- Every divisor divides `2 ^ FRAC_BITS` (R153, R155). -/
  exactScale : 7 ≤ fracBits
  /-- A calibrated result of reachable values fits its register (R155). -/
  resultFits : sampleBits + fracBits < accW
  /-- `SUM` cannot overflow (R31). -/
  sumFits : cntW + sampleBits ≤ sumW
  /-- `FSUM`, `s64`, cannot overflow (R32, D3). -/
  fsumFits : cntW + sampleBits + fracBits ≤ 63
  /-- The default count is a count (R108). -/
  countFits : defaultCount < 2 ^ cntW
  deriving DecidableEq, Repr

/-- The defaults of R5: profile LITERAL of `PULSES`, and the value the spec fixes for each other one. -/
def Params.literal : Params where
  sampleBits := 24
  sampledBits := 23
  accW := 32
  sumW := 64
  pulses128 := 128
  pulses64 := 64
  pulses32 := 32
  gainAReset := .g128
  resetDelayUs := 100
  defaultCount := 16
  pinW := 8
  cntW := 16
  fracBits := 7
  avgRound := .towardZero
  sampledSlots := by decide
  slotIndex := by decide
  exactScale := by decide
  resultFits := by decide
  sumFits := by decide
  fsumFits := by decide
  countFits := by decide

/-- Profile EXTRA: `PULSES(G128) = 1`, `PULSES(G32) = 2`, `PULSES(G64) = 3` (R94, G1). -/
def Params.extra : Params :=
  { Params.literal with pulses128 := 1, pulses64 := 3, pulses32 := 2 }

/-! ## Types whose width is a parameter -/

/-- A pin identifier, `u8` by default (R22). -/
abbrev Params.PinId (p : Params) := BitVec p.pinW

/-- The container of a raw sample: `ACC`, `RESULT` and the offsets, 32 bits by default (R20, R91). -/
abbrev Params.Container (p : Params) := BitVec p.accW

/-- `SUM`, `s64` by default (R31). -/
abbrev Params.Sum (p : Params) := BitVec p.sumW

/-- A count, `u16` by default (R20, R102). -/
abbrev Params.Count (p : Params) := BitVec p.cntW

/-- The pattern of a sample on the wire, 24 bits by default (R91). -/
abbrev Params.Pattern (p : Params) := BitVec p.sampleBits

/-- The index of the lowest bit that SHIFTIN samples: 1 by default (R128). -/
def Params.lowestBit (p : Params) : Nat := p.sampleBits - p.sampledBits

/-! ## Free values -/

/-- One value for each register that the spec leaves unspecified at some point (R30 to R32, R45, R183,
D17, D26). -/
structure Unspecified (p : Params) where
  pinData : p.PinId
  pinClock : p.PinId
  gainA : GainSetting
  gainB : GainSetting
  offsetA : p.Container
  offsetB : p.Container
  acc : p.Container
  sum : p.Sum
  fsum : BitVec 64
  bit : BitVec 5
  pcnt : Nat
  cnt : p.Count
  deriving Inhabited

/-- FREE VALUE: what the registers hold where the spec says their value is unspecified, for the
`n`-th draw (log 7, log 8). -/
opaque Config.unspecified (p : Params) : Nat → Unspecified p

/-- FREE VALUE: what a signed register of `w` bits holds after a sum or a mean that does not fit it, of
which no rule states the result (log 23). -/
opaque Config.overflowed (w : Nat) : Int → BitVec w

/-- FREE VALUE: the level ENV answers to a `PinRead` that no script fixes, for the `n`-th draw
(R64, U15, log 3). -/
opaque Config.envLevel : Nat → Level

end Sys2Proof
end

