-- ==== Sys2Proof/Syntax.lean ====
section
/-! DEFINITION. The commands: one constructor for each row of the opcode table, with the operands of
spec 30 R102. A pin identifier and a count are numbers; how wide they may be is a parameter (`PIN_W`,
`CNT_W`, spec 00 R5), which `Instr.WellFormed` checks. -/

namespace Sys2Proof

/-- The nine operations (R103). -/
inductive Instr where
  /-- CONSTRUCT dpin, cpin (R180). -/
  | construct (dpin cpin : Nat)
  /-- TEARDOWN (R183). -/
  | teardown
  /-- SETGAIN ch, g (R140). -/
  | setGain (ch : Channel) (g : GainSetting)
  /-- SELECT ch (R124). -/
  | select (ch : Channel)
  /-- SHIFTIN ch (R127). -/
  | shiftIn (ch : Channel)
  /-- READRAW ch (R150). -/
  | readRaw (ch : Channel)
  /-- READCAL ch (R152). -/
  | readCal (ch : Channel)
  /-- CALIBRATE ch, n (R160). -/
  | calibrate (ch : Channel) (n : Nat)
  /-- AVGREAD ch, n (R170). -/
  | avgRead (ch : Channel) (n : Nat)
  deriving DecidableEq, Repr

end Sys2Proof
end

