-- ==== Sys2Proof/WellFormed.lean ====
section
/-! DEFINITION. What a legal command word is (spec 30 R104), said apart from the decoder, and what a
well-formed command is: one whose operands fit the fields of its format (R101, R102). -/

namespace Sys2Proof

/-! ## Field widths

R101 draws the formats with the default widths of `PIN_W` and `CNT_W`. With other widths the operand
fields are that wide, as far as the 28 and 27 bits below the opcode and `ch` hold them (log 21). -/

/-- The width of each pin field of format P: 8 by default. -/
def Params.pinField (p : Params) : Nat := min p.pinW 14

/-- The width of the count field of format N: 16 by default. -/
def Params.countField (p : Params) : Nat := min p.cntW 27

/-! ## Words -/

/-- The opcode, bits 31:28 (R101). -/
def Word.opcode (w : Word) : Nat := w.toNat / 2 ^ 28

/-- The word whose bits `hi - 1` down to `lo` are 1 and whose other bits are 0. -/
def Word.ones (lo hi : Nat) : Word := BitVec.ofNat 32 (2 ^ hi - 2 ^ lo)

/-- The bits that the format of an opcode shows as 0 (R101, R103). -/
def reservedMask (p : Params) : Nat → Word
  | 0x1 => Word.ones (2 * p.pinField) 28
  | 0x2 => Word.ones 0 28
  | 0x3 => Word.ones 0 25
  | 0x4 | 0x5 | 0x6 | 0x7 => Word.ones 0 27
  | 0x8 | 0x9 => Word.ones p.countField 27
  | _ => 0

/-- The opcode is one of `0x1` to `0x9`: `0x0` and `0xA` to `0xF` are reserved (R103, R104). -/
def Word.opcodeAssigned (w : Word) : Bool := 1 ≤ w.opcode && w.opcode ≤ 9

/-- Every bit the format shows as 0 is 0 (R104). -/
def Word.reservedClear (p : Params) (w : Word) : Bool := w &&& reservedMask p w.opcode == 0

/-- The word is not a SETGAIN with `g = 0b11` (R104). -/
def Word.gainCodeAssigned (w : Word) : Bool :=
  !(w.opcode == 3 && w.extractLsb' 25 2 == 3#2)

/-- A legal command word: none of the three grounds of R104 makes it illegal. -/
def Word.legal (p : Params) (w : Word) : Bool :=
  w.opcodeAssigned && Word.reservedClear p w && w.gainCodeAssigned

/-! ## Commands -/

/-- The numbers a command's operands put into the fields of its format, each with the width of the
field in bits (R101, R102). -/
def Instr.fields (p : Params) : Instr → List (Nat × Nat)
  | .construct dpin cpin => [(dpin, p.pinField), (cpin, p.pinField)]
  | .teardown => []
  | .setGain _ g => [(match g with | .g128 => 0 | .g64 => 1 | .g32 => 2, 2)]
  | .select _ | .shiftIn _ | .readRaw _ | .readCal _ => []
  | .calibrate _ n | .avgRead _ n => [(n, p.countField)]

/-- A command is well formed when every operand fits its field. CONSTRUCT with equal pins and a count
of 0 are well formed: R104 calls them legal encodings. -/
def Instr.WellFormed (p : Params) (i : Instr) : Prop := ∀ f ∈ i.fields p, f.1 < 2 ^ f.2

end Sys2Proof
end

