-- ==== Sys2Proof/Decode.lean ====
section
/-! DEFINITION. The decoder (spec 30 R109), total on every 32-bit word and rejecting by name; the
encoder written from the formats of R101 to R103; the word of an opcode-table row; and the assembler
of R107 and R108. -/

namespace Sys2Proof

/-- Why a word is illegal (R104). -/
inductive Illegal where
  /-- `op` is `0x0` or `0xA` to `0xF`. -/
  | reservedOpcode
  /-- A bit its format shows as 0 is 1. -/
  | reservedBits
  /-- A SETGAIN with `g = 0b11`. -/
  | reservedGain
  deriving DecidableEq, Repr

/-! ## Operand codes (R102) -/

/-- `ch`: `0 = A`, `1 = B`. -/
def Channel.code : Channel → BitVec 1
  | .a => 0
  | .b => 1

/-- The channel a `ch` bit names. -/
def Channel.ofCode (c : BitVec 1) : Channel := if c = 0 then .a else .b

/-- `g`: `0b00 = G128`, `0b01 = G64`, `0b10 = G32`; also the code of `GAIN_A` and `GAIN_B` (R24). -/
def GainSetting.code : GainSetting → BitVec 2
  | .g128 => 0
  | .g64 => 1
  | .g32 => 2

/-- The setting a `g` code names; `0b11` is reserved. -/
def GainSetting.ofCode (c : BitVec 2) : Option GainSetting :=
  if c = 0 then some .g128 else if c = 1 then some .g64 else if c = 2 then some .g32 else none

/-! ## Decoder (R109) -/

/-- A word whose `width` bits from bit `lo` up must be 0, else `reservedBits`. -/
def ifClear (w : Word) (lo width : Nat) (i : Except Illegal Instr) : Except Illegal Instr :=
  if w.extractLsb' lo width = 0 then i else .error .reservedBits

/-- The channel operand of formats C, G and N: bit 27. -/
def chField (w : Word) : Channel := Channel.ofCode (w.extractLsb' 27 1)

/-- The count operand of format N: bits 15:0. -/
def countOf (p : Params) (w : Word) : Nat := (w.extractLsb' 0 p.countField).toNat

/-- The first pin operand of format P: bits 15:8. -/
def dpinOf (p : Params) (w : Word) : Nat := (w.extractLsb' p.pinField p.pinField).toNat

/-- The second pin operand of format P: bits 7:0. -/
def cpinOf (p : Params) (w : Word) : Nat := (w.extractLsb' 0 p.pinField).toNat

/-- A format P word, with 12 zero bits: 27:16. -/
def decodeConstruct (p : Params) (w : Word) : Except Illegal Instr :=
  ifClear w (2 * p.pinField) (28 - 2 * p.pinField) (.ok (.construct (dpinOf p w) (cpinOf p w)))

/-- A SETGAIN word with its zero bits already found clear. -/
def decodeSetGain (w : Word) : Except Illegal Instr :=
  match GainSetting.ofCode (w.extractLsb' 25 2) with
  | some g => .ok (.setGain (chField w) g)
  | none => .error .reservedGain

/-- A format N word, with 11 zero bits: 26:16. -/
def decodeCount (p : Params) (mk : Channel → Nat → Instr) (w : Word) : Except Illegal Instr :=
  ifClear w p.countField (27 - p.countField) (.ok (mk (chField w) (countOf p w)))

/-- The decoding algorithm of R109. It reads no engine state: the parameters only say how wide the
operand fields are. The bit numbers in the comments are those of the default widths. -/
def decode (p : Params) (w : Word) : Except Illegal Instr :=
  match (w.extractLsb' 28 4).toNat with
  | 0x1 => decodeConstruct p w
  | 0x2 => ifClear w 0 28 (.ok .teardown)
  | 0x3 => ifClear w 0 25 (decodeSetGain w)
  | 0x4 => ifClear w 0 27 (.ok (.select (chField w)))
  | 0x5 => ifClear w 0 27 (.ok (.shiftIn (chField w)))
  | 0x6 => ifClear w 0 27 (.ok (.readRaw (chField w)))
  | 0x7 => ifClear w 0 27 (.ok (.readCal (chField w)))
  | 0x8 => decodeCount p .calibrate w
  | 0x9 => decodeCount p .avgRead w
  | _ => .error .reservedOpcode

/-! ## Encoder (R101, R103) -/

/-- A word with its opcode in bits 31:28 and the given number below it. -/
def wordOf (op below : Nat) : Word := BitVec.ofNat 32 (op * 2 ^ 28 + below)

/-- A word with an opcode, a channel in bit 27 and the given number below it: formats C, G and N. -/
def wordCh (op : Nat) (ch : Channel) (below : Nat) : Word := wordOf op (ch.code.toNat * 2 ^ 27 + below)

/-- The word of a command. -/
def encode (p : Params) : Instr → Word
  | .construct dpin cpin => wordOf 1 (dpin * 2 ^ p.pinField + cpin)
  | .teardown => wordOf 2 0
  | .setGain ch g => wordCh 3 ch (g.code.toNat * 2 ^ 25)
  | .select ch => wordCh 4 ch 0
  | .shiftIn ch => wordCh 5 ch 0
  | .readRaw ch => wordCh 6 ch 0
  | .readCal ch => wordCh 7 ch 0
  | .calibrate ch n => wordCh 8 ch n
  | .avgRead ch n => wordCh 9 ch n

/-! ## The opcode table's words -/

/-- The command word whose low `nbits` bits are those of `w` and whose other bits are 0. A command
is one 32-bit word (R106), handed over as a word and never as bytes (R67). -/
def tableWord (nbits w : Nat) : Word := BitVec.ofNat 32 (w % 2 ^ nbits)

/-- What the decoder reads from a row's word, `none` where it refuses. The table is drawn for the
default widths. -/
def decodeTableWord (nbits w : Nat) : Option Instr :=
  match decode Params.literal (tableWord nbits w) with
  | .ok i => some i
  | .error _ => none

/-! ## Assembler (R107, R108)

A line is a list of characters: a mnemonic in capitals, then its operands separated by commas.
DESIGN CHOICE (log 16): spaces around a token mean nothing, and one space at least ends the mnemonic. -/

/-- The value of one digit in a base up to 16. -/
def digitValue (c : Char) : Option Nat :=
  if '0' ≤ c ∧ c ≤ '9' then some (c.toNat - '0'.toNat)
  else if 'a' ≤ c ∧ c ≤ 'f' then some (c.toNat - 'a'.toNat + 10)
  else if 'A' ≤ c ∧ c ≤ 'F' then some (c.toNat - 'A'.toNat + 10)
  else none

/-- Digits read from the left on top of `acc`, each below the base. -/
def digits (base : Nat) : List Char → Nat → Option Nat
  | [], acc => some acc
  | c :: cs, acc =>
    match digitValue c with
    | some d => if d < base then digits base cs (acc * base + d) else none
    | none => none

/-- A decimal or `0x` hexadecimal number (R107). -/
def number : List Char → Option Nat
  | [] => none
  | '0' :: 'x' :: c :: cs => digits 16 (c :: cs) 0
  | cs => digits 10 cs 0

/-- A number that fits a field of `k` bits; one that does not is refused at assembly (U7). -/
def fitField (k v : Nat) : Option Nat := if v < 2 ^ k then some v else none

/-- A written number that fits a field of `k` bits. -/
def numberOf (k : Nat) (cs : List Char) : Option Nat := (number cs).bind (fitField k)

/-- `ch` is written `A` or `B` (R107). -/
def channelName (cs : List Char) : Option Channel :=
  if cs = ['A'] then some .a else if cs = ['B'] then some .b else none

/-- `g` is written `128`, `64` or `32` (R107). -/
def gainName (cs : List Char) : Option GainSetting :=
  if cs = ['1', '2', '8'] then some .g128
  else if cs = ['6', '4'] then some .g64
  else if cs = ['3', '2'] then some .g32
  else none

/-- The text before the first `sep` and the texts after, one for each `sep`. -/
def splitAt (sep : Char) : List Char → List (List Char)
  | [] => [[]]
  | c :: cs =>
    match splitAt sep cs with
    | [] => [[c]]
    | t :: ts => if c = sep then [] :: t :: ts else (c :: t) :: ts

/-- The text up to the first space, and what follows it. -/
def mnemonicOf : List Char → List Char × List Char
  | [] => ([], [])
  | c :: cs => if c = ' ' then ([], cs) else (c :: (mnemonicOf cs).1, (mnemonicOf cs).2)

/-- A text without the spaces at its two ends. -/
def trim (cs : List Char) : List Char :=
  ((cs.dropWhile (· = ' ')).reverse.dropWhile (· = ' ')).reverse

/-- The operands of a line, split at commas; none where nothing is written. -/
def operandsOf (cs : List Char) : List (List Char) :=
  if trim cs = [] then [] else (splitAt ',' cs).map trim

/-- A command with one channel operand. -/
def asmChannel (mk : Channel → Instr) : List (List Char) → Option Instr
  | [c] => (channelName c).map mk
  | _ => none

/-- A command with a channel and a count, the count `DEFAULT_COUNT` where it is not written (R108). -/
def asmCount (p : Params) (mk : Channel → Nat → Instr) : List (List Char) → Option Instr
  | [c] =>
    match channelName c, fitField p.countField p.defaultCount with
    | some ch, some k => some (mk ch k)
    | _, _ => none
  | [c, n] =>
    match channelName c, numberOf p.countField n with
    | some ch, some k => some (mk ch k)
    | _, _ => none
  | _ => none

/-- CONSTRUCT's two pin numbers. -/
def asmConstruct (p : Params) : List (List Char) → Option Instr
  | [d, c] =>
    match numberOf p.pinField d, numberOf p.pinField c with
    | some dpin, some cpin => some (.construct dpin cpin)
    | _, _ => none
  | _ => none

/-- SETGAIN's channel and setting. -/
def asmSetGain : List (List Char) → Option Instr
  | [c, g] =>
    match channelName c, gainName g with
    | some ch, some s => some (.setGain ch s)
    | _, _ => none
  | _ => none

/-- A command without operands. -/
def asmPlain (i : Instr) : List (List Char) → Option Instr
  | [] => some i
  | _ => none

/-- The mnemonics of R103 and the pseudo-instructions READCAL.A and READCAL.B of R108. -/
def assemble (p : Params) (line : List Char) : Option Instr :=
  let text := line.dropWhile (· = ' ')
  let ops := operandsOf (mnemonicOf text).2
  let m := (mnemonicOf text).1
  if m = ['C', 'O', 'N', 'S', 'T', 'R', 'U', 'C', 'T'] then asmConstruct p ops
  else if m = ['T', 'E', 'A', 'R', 'D', 'O', 'W', 'N'] then asmPlain .teardown ops
  else if m = ['S', 'E', 'T', 'G', 'A', 'I', 'N'] then asmSetGain ops
  else if m = ['S', 'E', 'L', 'E', 'C', 'T'] then asmChannel .select ops
  else if m = ['S', 'H', 'I', 'F', 'T', 'I', 'N'] then asmChannel .shiftIn ops
  else if m = ['R', 'E', 'A', 'D', 'R', 'A', 'W'] then asmChannel .readRaw ops
  else if m = ['R', 'E', 'A', 'D', 'C', 'A', 'L'] then asmChannel .readCal ops
  else if m = ['R', 'E', 'A', 'D', 'C', 'A', 'L', '.', 'A'] then asmPlain (.readCal .a) ops
  else if m = ['R', 'E', 'A', 'D', 'C', 'A', 'L', '.', 'B'] then asmPlain (.readCal .b) ops
  else if m = ['C', 'A', 'L', 'I', 'B', 'R', 'A', 'T', 'E'] then asmCount p .calibrate ops
  else if m = ['A', 'V', 'G', 'R', 'E', 'A', 'D'] then asmCount p .avgRead ops
  else none

end Sys2Proof
end

