-- ==== Sys2Proof/Machine/State.lean ====
section
/-! DEFINITION. The state of the engine (spec 10), with HOST's commands, ENV's answers and the pin
event trace beside it; why a step can stop; and the state at power-on. -/

namespace Sys2Proof.Machine

/-- The lifecycle code (R21). -/
inductive Life where
  /-- `UNBUILT = 0`: no CONSTRUCT has run since power was applied. -/
  | unbuilt
  /-- `LIVE = 1`: between a CONSTRUCT and the next TEARDOWN. -/
  | live
  /-- `DEAD = 2`: after TEARDOWN. -/
  | dead
  deriving DecidableEq, Repr, Inhabited

/-- A pin event: one call of one platform primitive (R62). -/
inductive PinEvent (p : Params) where
  /-- `C(pin, out)`: `PinDir`. -/
  | dir (pin : p.PinId) (out : Dir)
  /-- `W(pin, l)`: `PinWrite`. -/
  | write (pin : p.PinId) (l : Level)
  /-- `R(pin) = l`: a `PinRead` that returned `l`. -/
  | read (pin : p.PinId) (l : Level)
  /-- `T(n)`: `DelayUs`. -/
  | delay (n : Nat)
  deriving DecidableEq, Repr

/-- The five platform calls of CONSTRUCT, in order (R180). -/
inductive ConstructCall where
  | dirData
  | dirClock
  | rise
  | delay
  | fall
  deriving DecidableEq, Repr

/-- The two platform calls of TEARDOWN, in order (R183). -/
inductive TeardownCall where
  | dirData
  | dirClock
  deriving DecidableEq, Repr

/-- The platform calls of SELECT: the poll of WAITRDY and the two writes of PULSE (R120, R121, R124). -/
inductive SelectCall where
  | poll
  | rise
  | fall
  deriving DecidableEq, Repr

/-- The platform calls of SHIFTIN: the poll of WAITRDY, the three calls of SAMPLEPULSE and the two
writes of a pulse without a sample, which the 24th is (R120, R122, R127). -/
inductive ShiftInCall where
  | poll
  | rise
  | sample
  | fall
  | plainRise
  | plainFall
  deriving DecidableEq, Repr

/-- The operation that a SELECT or SHIFTIN in progress belongs to, with its operands: composition is
inlining, and no return address is stored (R136 item 4). -/
inductive Owner (p : Params) where
  /-- The command is the SELECT or the SHIFTIN itself. -/
  | alone
  | readRaw (ch : Channel)
  | readCal (ch : Channel)
  | calibrate (ch : Channel) (n : p.Count)
  | avgRead (ch : Channel) (n : p.Count)
  deriving DecidableEq, Repr

/-- `SEQ`: the next platform call of the operation in progress, or `IDLE` (R40). -/
inductive Seq (p : Params) where
  | idle
  | construct (call : ConstructCall)
  | teardown (call : TeardownCall)
  | select (call : SelectCall) (owner : Owner p)
  | shiftIn (call : ShiftInCall) (owner : Owner p)
  deriving DecidableEq, Repr

/-- All the state of a machine whose parameters are `p`: the registers of R20 first, then HOST, ENV, the
observation and the count of free values drawn (the model's own). -/
structure Engine (p : Params) where
  /-- `LIFE` (R21). -/
  life : Life
  /-- `PIN_DATA` (R22). -/
  pinData : p.PinId
  /-- `PIN_CLOCK` (R23). -/
  pinClock : p.PinId
  /-- `GAIN_A` (R24). -/
  gainA : GainSetting
  /-- `GAIN_B` (R25). -/
  gainB : GainSetting
  /-- `OFFSET_A`, signed (R26). -/
  offsetA : p.Container
  /-- `OFFSET_B`, signed (R27). -/
  offsetB : p.Container
  /-- `ACC`, the shift accumulator (R30). -/
  acc : p.Container
  /-- `SUM`, signed, the calibration accumulator (R31). -/
  sum : p.Sum
  /-- `FSUM`, `s64` in units of one grid step, the averaging accumulator (R32). -/
  fsum : BitVec 64
  /-- `RESULT` (R33). -/
  result : p.Container
  /-- `SEQ` (R40). -/
  seq : Seq p
  /-- `BIT`, the bit index of SHIFTIN (R40). -/
  bit : BitVec 5
  /-- `PCNT`, the pulses SELECT has still to emit (R40): a number, as the parameter it is loaded from is
  (D1, log 9). -/
  pcnt : Nat
  /-- `CNT`, the reads CALIBRATE or AVGREAD has still to make (R40). -/
  cnt : p.Count
  /-- `CLK_OUT` (R42). -/
  clkOut : Level
  /-- `DIR_DATA` (R42). -/
  dirData : Dir
  /-- `DIR_CLOCK` (R42). -/
  dirClock : Dir
  /-- HOST: the command words still to be issued (R16). -/
  program : List Word
  /-- ENV: the levels it will answer to the next reads; past them a free value (R64, R82). -/
  script : List Level
  /-- The pin event trace, oldest event first (R8, R62). -/
  trace : List (PinEvent p)
  /-- How many free values have been drawn: the model's own counter, of no meaning to the hardware. -/
  draws : Nat
  deriving DecidableEq, Repr

/-- The state: the implementation parameters (R5), which no step writes, and the machine that has them. -/
structure State where
  params : Params
  engine : Engine params
  deriving DecidableEq, Repr

/-- Why a run goes wrong (R191, R197). The spec has one fault. -/
inductive Fault where
  /-- CALIBRATE or AVGREAD with `n = 0`, at the division after the empty loop (R162, R172). Raised by
  `calibrateLoop` and `avgReadLoop`. Safe: the spec gives no value and no state after it. -/
  | divideByZero
  deriving DecidableEq, Repr

/-- Why a command is given no meaning (R191). -/
inductive Refusal where
  /-- An illegal command word (R104). Raised by `issueWord`. Safe: the spec says nothing of what
  hardware does with it. -/
  | illegalCommand (why : Illegal)
  /-- A command while an operation is in progress (R7). Raised by every meaning. Safe. -/
  | busy
  /-- A command in the wrong lifecycle state (R182, R196). Raised by every meaning. Safe. -/
  | wrongLifecycle
  /-- CONSTRUCT with `dpin = cpin` (R181). Raised by `execConstruct`. Safe. -/
  | samePin
  /-- A calibrated result that does not fit its register (R156). Raised by `calibratedThen` at the end of a
  READCAL, also inside AVGREAD. Safe: no reachable state comes to it. -/
  | resultOverflow
  /-- An instruction without a meaning in this model. Raised by no arm of `exec` now. Safe. -/
  | notModelled (mnemonic : String)
  deriving DecidableEq, Repr

/-- A machine after power is applied and before any CONSTRUCT (R45 first column, R220): the start state
of every program of the spec. `UNBUILT` and `IDLE` are the spec's; a register the spec leaves
unspecified is 0, DESIGN CHOICE (log 6), which is code 0 = `G128` for a gain, `LOW` for a level and
input for a direction. -/
def Engine.powerOn (p : Params) : Engine p :=
  { life := .unbuilt
    pinData := 0
    pinClock := 0
    gainA := .g128
    gainB := .g128
    offsetA := 0
    offsetB := 0
    acc := 0
    sum := 0
    fsum := 0
    result := 0
    seq := .idle
    bit := 0
    pcnt := 0
    cnt := 0
    clkOut := .low
    dirData := .input
    dirClock := .input
    program := []
    script := []
    trace := []
    draws := 0 }

/-- The machine at power-on with the default parameters (R5, R220). -/
def State.reset : State := ⟨Params.literal, Engine.powerOn Params.literal⟩

end Sys2Proof.Machine
end

