-- ==== Sys2Proof/Machine/Ops.lean ====
section
/-! DEFINITION. The named operations on the state: the four platform primitives (spec 20 R61 to R65),
the checks every command goes through (60 R193, R196), what becomes of registers the spec leaves
unspecified, and what HOST reads. The engine has no memory (20 R60) and takes no exception (60 R190,
R197): there is no trap entry and no return to write. -/

namespace Sys2Proof.Machine

variable {p : Params}

/-- The outcome of one step of the whole machine. -/
abbrev Result := Host.Outcome State Fault Refusal

/-- The outcome of one step with the parameters `p`. -/
abbrev Outcome (p : Params) := Host.Outcome (Engine p) Fault Refusal

/-- The outcome of the engine's step as one of the whole machine: the parameters stay (R5). -/
def lift : Outcome p → Result
  | .next t => .next ⟨p, t⟩
  | .fault why => .fault why
  | .refused why => .refused why

/-- What a state comes to when its engine comes to `f`. -/
def State.act (s : State) (f : Engine s.params → Outcome s.params) : Result := lift (f s.engine)

/-- The 2-bit code of `LIFE`; code 3 is never written (R21). -/
def Life.code : Life → BitVec 2
  | .unbuilt => 0
  | .live => 1
  | .dead => 2

/-- One pin event, at the end of the trace (R62, R72). -/
def Engine.emit (ev : PinEvent p) (e : Engine p) : Engine p := { e with trace := e.trace ++ [ev] }

/-- The identifier of a line: the content of `PIN_DATA` or `PIN_CLOCK` (R60). -/
def Engine.pinOf (line : Line) (e : Engine p) : p.PinId :=
  match line with
  | .data => e.pinData
  | .clock => e.pinClock

/-- `PinDir(p, out)` (R61): the event, and the line's direction latch. -/
def Engine.pinDir (line : Line) (out : Dir) (e : Engine p) : Engine p :=
  let t := e.emit (.dir (e.pinOf line) out)
  match line with
  | .data => { t with dirData := out }
  | .clock => { t with dirClock := out }

/-- `PinWrite(PIN_CLOCK, l)` (R63): the event, and `CLK_OUT <- l`. The engine writes no other pin. -/
def Engine.pinWrite (l : Level) (e : Engine p) : Engine p :=
  { e.emit (.write (e.pinOf .clock) l) with clkOut := l }

/-- The level ENV answers to the next `PinRead`: the next of the script, or a free value where the
script has ended (R64, R82). -/
def Engine.nextLevel (e : Engine p) : Level :=
  match e.script with
  | l :: _ => l
  | [] => Config.envLevel e.draws

/-- The state once ENV has given that answer: nothing but the script, or the count of draws, moves. -/
def Engine.answered (e : Engine p) : Engine p :=
  match e.script with
  | _ :: rest => { e with script := rest }
  | [] => { e with draws := e.draws + 1 }

/-- `PinRead(PIN_DATA)` (R64): the state after the event; the level it returned is `e.nextLevel`. The
engine reads no other pin. -/
def Engine.pinRead (e : Engine p) : Engine p :=
  e.answered.emit (.read (e.pinOf .data) e.nextLevel)

/-- `DelayUs(n)` (R65): the event and nothing else. -/
def Engine.delayUs (n : Nat) (e : Engine p) : Engine p := e.emit (.delay n)

/-- The check that no operation is in progress (R7, R193 item 2). -/
def whenIdle (e : Engine p) (k : Outcome p) : Outcome p :=
  if e.seq = .idle then k else .refused .busy

/-- The checks of every command but CONSTRUCT: not busy, then `LIFE = LIVE` (R193, R196). -/
def whenLive (e : Engine p) (k : Outcome p) : Outcome p :=
  whenIdle e (if e.life = .live then k else .refused .wrongLifecycle)

/-! ## Registers the spec leaves unspecified

Each of these draws one free value (log 7, log 8). -/

/-- `PCNT` after the operation that used it (D17). -/
def Engine.releasePulses (e : Engine p) : Engine p :=
  { e with pcnt := (Config.unspecified p e.draws).pcnt, draws := e.draws + 1 }

/-- `ACC` and `BIT` after the operation that used them (R30, D17). -/
def Engine.releaseShift (e : Engine p) : Engine p :=
  { e with
    acc := (Config.unspecified p e.draws).acc
    bit := (Config.unspecified p e.draws).bit
    draws := e.draws + 1 }

/-- `SUM` and `CNT` after CALIBRATE (R31, D17). -/
def Engine.releaseSum (e : Engine p) : Engine p :=
  { e with
    sum := (Config.unspecified p e.draws).sum
    cnt := (Config.unspecified p e.draws).cnt
    draws := e.draws + 1 }

/-- `FSUM` and `CNT` after AVGREAD (R32, D17). -/
def Engine.releaseFsum (e : Engine p) : Engine p :=
  { e with
    fsum := (Config.unspecified p e.draws).fsum
    cnt := (Config.unspecified p e.draws).cnt
    draws := e.draws + 1 }

/-- The configuration registers after TEARDOWN: "destroyed" (R183, D26). -/
def Engine.destroyConfig (e : Engine p) : Engine p :=
  { e with
    pinData := (Config.unspecified p e.draws).pinData
    pinClock := (Config.unspecified p e.draws).pinClock
    gainA := (Config.unspecified p e.draws).gainA
    gainB := (Config.unspecified p e.draws).gainB
    offsetA := (Config.unspecified p e.draws).offsetA
    offsetB := (Config.unspecified p e.draws).offsetB
    draws := e.draws + 1 }

/-- The end of an operation: `SEQ <- IDLE` (R16, R40). -/
def Engine.finish (e : Engine p) : Engine p := { e with seq := .idle }

/-- HOST reads `RESULT`, and only while no operation is in progress (R16 item (b)). -/
def Engine.hostReads (e : Engine p) : Option p.Container :=
  if e.seq = .idle then some e.result else none

end Sys2Proof.Machine
end

