-- ==== Sys2Proof/Machine/Operands.lean ====
section
/-! DEFINITION. What the operands stand for: the registers of a channel, the pulse count and the
divisor of a setting, the number a frame encodes, and the arithmetic of the calibrated read (spec 30
R91, R92, R94; 40 R130, R135; 42 R153 to R155; 44 R171). -/

namespace Sys2Proof.Machine

variable {p : Params}

/-- The gain register of a channel (R124). -/
def Engine.gainOf (ch : Channel) (e : Engine p) : GainSetting :=
  match ch with
  | .a => e.gainA
  | .b => e.gainB

/-- The offset register of a channel (R152). -/
def Engine.offsetOf (ch : Channel) (e : Engine p) : p.Container :=
  match ch with
  | .a => e.offsetA
  | .b => e.offsetB

/-- The write of a channel's offset register (R160). -/
def Engine.setOffset (ch : Channel) (v : p.Container) (e : Engine p) : Engine p :=
  match ch with
  | .a => { e with offsetA := v }
  | .b => { e with offsetB := v }

/-- `PULSES(g)`, the parameter table (R94). -/
def pulses (p : Params) : GainSetting → Nat
  | .g128 => p.pulses128
  | .g64 => p.pulses64
  | .g32 => p.pulses32

/-! ## The sample -/

/-- `1 << i` ORed into the accumulator for a HIGH sample; a LOW sample leaves it (R122). -/
def orSample (acc : p.Container) (i : Nat) (l : Level) : p.Container :=
  match l with
  | .high => acc ||| BitVec.ofNat p.accW (2 ^ i)
  | .low => acc

/-- `if ACC[23] = 1 then ACC[31:24] <- 0xFF` (R130): the sign bit of the sample, and the bits above it. -/
def signExtend (acc : p.Container) : p.Container :=
  if acc.getLsbD (p.sampleBits - 1) then acc ||| BitVec.allOnes p.accW <<< p.sampleBits else acc

/-- `sext_32` of a 24-bit pattern (R10, R91). -/
def sext (b : p.Pattern) : p.Container := b.signExtend p.accW

/-- The number whose binary digits, most significant first, are the levels. -/
def levelsNat : List Level → Nat
  | [] => 0
  | l :: ls => l.bit * 2 ^ ls.length + levelsNat ls

/-- The pattern of sampled levels `b_23, …, b_1`: the sum of `b_i * 2^i`, the bits below the lowest
sampled one 0 (R92, R128, R135). -/
def samplePattern (p : Params) (b : List Level) : p.Pattern :=
  BitVec.ofNat p.sampleBits (2 ^ p.lowestBit * levelsNat b)

/-- `DECODE(b)` (R135). -/
def decodeLevels (p : Params) (b : List Level) : Int := (sext (samplePattern p b)).toInt

/-- The levels a chip pattern presents in the sampled slots: `P[23], P[22], …, P[1]` (R78, R82, R90). -/
def patternLevels (b : p.Pattern) : List Level :=
  (List.range p.sampledBits).map fun k => Level.ofBool (b.getLsbD (p.sampleBits - 1 - k))

/-- The script of a wait satisfied after `k` failed polls (R82, R120). -/
def waitScript (k : Nat) : List Level := List.replicate k .high ++ [.low]

/-- The script of one SHIFTIN for a pattern that becomes ready after `k` polls (R82). -/
def frameScript (k : Nat) (b : p.Pattern) : List Level := waitScript k ++ patternLevels b

/-! ## The calibrated read -/

/-- `DIV(ch)` (R153): channel A by its gain, with the fallback 1; channel B always 32. -/
def divisor (ch : Channel) (gainA : GainSetting) : Nat :=
  match ch, gainA with
  | .a, .g128 => 128
  | .a, .g64 => 64
  | .a, .g32 => 1
  | .b, _ => 32

/-- `128 / DIV(ch)`, the factor that brings a difference to the grid of `FRAC_BITS` (R153, R155). -/
def scale (p : Params) (ch : Channel) (gainA : GainSetting) : Nat :=
  2 ^ p.fracBits / divisor ch gainA

/-- The exact fixed-point result `d * (128 / DIV(ch))`, as an integer not yet stored (R152, R155). -/
def fixedPoint (p : Params) (ch : Channel) (gainA : GainSetting) (raw off : Int) : Int :=
  (raw - off) * scale p ch gainA

/-- The CalibratedValue, an exact rational (R154). -/
def calibratedValue (ch : Channel) (gainA : GainSetting) (raw off : Int) : Rat :=
  ((raw - off : Int) : Rat) / divisor ch gainA

/-- The rational a calibrated `RESULT` stands for (R33). -/
def resultValue (r : p.Container) : Rat := (r.toInt : Rat) / 2 ^ p.fracBits

/-! ## Sums and means -/

/-- A signed sum or mean as a register of `w` bits holds it. Where the number does not fit, which R31, R32
and R163 exclude in the reachable states alone, the spec states no value: a FREE VALUE, DESIGN CHOICE
(log 23). The machine goes on. -/
def fitted (w : Nat) (v : Int) : BitVec w :=
  if -2 ^ (w - 1) ≤ v ∧ v < 2 ^ (w - 1) then BitVec.ofInt w v else Config.overflowed w v

/-- The rounded quotient by a positive count (R171): truncation toward zero by default. -/
def roundDiv (mode : Rounding) (a n : Int) : Int :=
  match mode with
  | .towardZero => truncdiv a n
  | .towardNegative => a / n
  | .towardPositive => -(-a / n)
  | .nearestEven =>
    let q := a / n
    let twice := 2 * (a % n)
    if twice < n then q else if n < twice then q + 1 else if q % 2 = 0 then q else q + 1

end Sys2Proof.Machine
end

