-- ==== Sys2Proof/Machine/Flags.lean ====
section
/-! DEFINITION. The engine has no status flags, condition codes or predicate registers (spec 10 R41):
no operation leaves a flag behind. What stands here are the conditions R41 lists, computed where
they are used and never stored. -/

namespace Sys2Proof.Machine

/-- The data-ready test of WAITRDY: the level is `LOW` (R120). -/
def dataReady (l : Level) : Bool := l == .low

/-- `g` belongs to the channel's gain family: `FAM_A = {G128, G64}`, `FAM_B = {G32}` (R14, R140). -/
def inFamily (ch : Channel) (g : GainSetting) : Bool :=
  match ch, g with
  | .a, .g128 | .a, .g64 | .b, .g32 => true
  | .a, .g32 | .b, .g128 | .b, .g64 => false

/-- The product does not fit its register: READCAL has no meaning (R156). -/
def overflows (p : Params) (v : Int) : Bool := decide (2 ^ (p.accW - 1) ≤ v.natAbs)

end Sys2Proof.Machine
end

