-- ==== Sys2Proof/Machine/Protocol.lean ====
section
/-! DEFINITION. Protocol core: WAITRDY, PULSE, SAMPLEPULSE, SELECT and SHIFTIN (spec 40). A step
function takes `done`, what follows the last call of its procedure: the end of the command, or the
next part of the operation it is inlined in (R136 item 4). -/

namespace Sys2Proof.Machine

variable {p : Params}

/-- One poll of WAITRDY (R120): a read; `HIGH` and the same poll is next, `LOW` and `ready` follows.
Nothing bounds it (R194). -/
def waitReady (ready : Engine p → Outcome p) (e : Engine p) : Outcome p :=
  if dataReady e.nextLevel then ready e.pinRead else .next e.pinRead

/-! ## SELECT -/

/-- The head of SELECT: the pulse count is looked up first, the wait comes next (R124). -/
def Engine.beginSelect (ch : Channel) (owner : Owner p) (e : Engine p) : Engine p :=
  { e with pcnt := pulses p (e.gainOf ch), seq := .select .poll owner }

/-- `repeat PCNT times PULSE`: another pulse, or the end of SELECT where none is left (R124). -/
def pulseLoop (owner : Owner p) (done : Engine p → Outcome p) (e : Engine p) : Outcome p :=
  if e.pcnt = 0 then done e else .next { e with seq := .select .rise owner }

/-- One engine step of SELECT (R124, R125). -/
def selectStep (call : SelectCall) (owner : Owner p) (done : Engine p → Outcome p)
    (e : Engine p) : Outcome p :=
  match call with
  | .poll => waitReady (pulseLoop owner done) e
  | .rise => .next { e.pinWrite .high with seq := .select .fall owner }
  | .fall => pulseLoop owner done { e.pinWrite .low with pcnt := e.pcnt - 1 }

/-- SELECT ch (R124). -/
def execSelect (ch : Channel) (s : State) : Result :=
  s.act fun e => whenLive e (.next (e.beginSelect ch .alone))

/-! ## SHIFTIN -/

/-- The head of SHIFTIN: its own full WAITRDY (R127, R134). -/
def Engine.beginShiftIn (owner : Owner p) (e : Engine p) : Engine p :=
  { e with seq := .shiftIn .poll owner }

/-- After the wait: `ACC <- 0`, and the loop starts at the sign bit, bit 23 (R127). -/
def Engine.clearAcc (owner : Owner p) (e : Engine p) : Engine p :=
  { e with acc := 0, bit := BitVec.ofNat 5 (p.sampleBits - 1), seq := .shiftIn .rise owner }

/-- After the last slot of the frame: sign extension, then `RESULT <- ACC` (R127, R130). -/
def Engine.takeSample (e : Engine p) : Engine p :=
  { e with acc := signExtend e.acc, result := signExtend e.acc }

/-- After a sampled pulse: the next bit down; or, once the lowest sampled bit is in, the slots without a
sample, of which the 24th is one by default (R90, R127 to R129). There `BIT` counts those still to come,
and so stays at 1 in the 24th pulse (log 22). -/
def afterSample (owner : Owner p) (done : Engine p → Outcome p) (e : Engine p) : Outcome p :=
  if e.bit.toNat ≠ p.lowestBit then .next { e with bit := e.bit - 1, seq := .shiftIn .rise owner }
  else if p.lowestBit = 0 then done e.takeSample
  else .next { e with seq := .shiftIn .plainRise owner }

/-- After a pulse without a sample: the next such pulse, or the end of the frame (R90, R129). -/
def afterPlain (owner : Owner p) (done : Engine p → Outcome p) (e : Engine p) : Outcome p :=
  if e.bit.toNat ≤ 1 then done e.takeSample
  else .next { e with bit := e.bit - 1, seq := .shiftIn .plainRise owner }

/-- One engine step of SHIFTIN (R127, R132). The OR into `ACC` comes before the falling edge (R122). -/
def shiftInStep (call : ShiftInCall) (owner : Owner p) (done : Engine p → Outcome p)
    (e : Engine p) : Outcome p :=
  match call with
  | .poll => waitReady (fun t => .next (t.clearAcc owner)) e
  | .rise => .next { e.pinWrite .high with seq := .shiftIn .sample owner }
  | .sample =>
    .next { e.pinRead with
      acc := orSample e.acc e.bit.toNat e.nextLevel
      seq := .shiftIn .fall owner }
  | .fall => afterSample owner done (e.pinWrite .low)
  | .plainRise => .next { e.pinWrite .high with seq := .shiftIn .plainFall owner }
  | .plainFall => afterPlain owner done (e.pinWrite .low)

/-- SHIFTIN ch (R127). The operand is carried and ignored (R133). -/
def execShiftIn (_ch : Channel) (s : State) : Result :=
  s.act fun e => whenLive e (.next (e.beginShiftIn .alone))

end Sys2Proof.Machine
end

