-- ==== Sys2Proof/Machine/Read.lean ====
section
/-! DEFINITION. Calibrated read: READRAW and READCAL (spec 42). -/

namespace Sys2Proof.Machine

variable {p : Params}

/-- The end of READRAW, and of READCAL after its result is stored. -/
def Engine.endRead (e : Engine p) : Engine p := e.releasePulses.releaseShift.finish

/-- The calibrated-read path (R152, R155): from the raw sample in `RESULT`, subtract the offset and
scale; a product that does not fit is refused (R156); else it goes to `RESULT` and `k` follows. -/
def calibratedThen (ch : Channel) (k : Engine p → Outcome p) (e : Engine p) : Outcome p :=
  let v := fixedPoint p ch e.gainA e.result.toInt (e.offsetOf ch).toInt
  if overflows p v then .refused .resultOverflow
  else k { e with result := BitVec.ofInt p.accW v }

/-- READRAW ch (R150): SELECT, then SHIFTIN. -/
def execReadRaw (ch : Channel) (s : State) : Result :=
  s.act fun e => whenLive e (.next (e.beginSelect ch (.readRaw ch)))

/-- READCAL ch (R152): READRAW, then the calibrated-read path. -/
def execReadCal (ch : Channel) (s : State) : Result :=
  s.act fun e => whenLive e (.next (e.beginSelect ch (.readCal ch)))

end Sys2Proof.Machine
end

