-- ==== Sys2Proof/Machine/Averaging.lean ====
section
/-! DEFINITION. Averaging: AVGREAD (spec 44), layered on READCAL. -/

namespace Sys2Proof.Machine

variable {p : Params}

/-- The mean into `RESULT`, rounded to the fixed-point grid by `AVG_ROUND` (R170, R171). A mean
that does not fit `RESULT`, possible only where `FSUM` is no sum of results, is a free value (log 23). -/
def Engine.storeAverage (n : p.Count) (e : Engine p) : Engine p :=
  { e with result := fitted p.accW (roundDiv p.avgRound e.fsum.toInt n.toNat) }

/-- The head of AVGREAD's loop (R170): another READCAL while `CNT` is not 0; then the test of `n`,
which faults for 0 (R172), the division and the end. -/
def avgReadLoop (ch : Channel) (n : p.Count) (e : Engine p) : Outcome p :=
  if e.cnt ≠ 0 then .next (e.beginSelect ch (.avgRead ch n))
  else if n = 0 then .fault .divideByZero
  else .next (e.storeAverage n).releasePulses.releaseShift.releaseFsum.finish

/-- `FSUM <- FSUM + signed_32(RESULT)`, and one read less to make (R170). R32 argues that `FSUM`, `s64`,
cannot overflow from terms below `2 ^ 31`. With a wider `ACC_W` and an offset outside the invariant, each
result may fit its register and the sum not fit `FSUM`; then `FSUM` is a free value, neither a wrapped sum
nor a refusal: the model's choice, DESIGN CHOICE (log 23). -/
def Engine.addCal (e : Engine p) : Engine p :=
  { e with fsum := fitted 64 (e.fsum.toInt + e.result.toInt), cnt := e.cnt - 1 }

/-- The start of AVGREAD (R170). -/
def Engine.beginAvgRead (ch : Channel) (n : p.Count) (e : Engine p) : Outcome p :=
  whenLive e (avgReadLoop ch n { e with fsum := 0, cnt := n })

/-- AVGREAD ch, n (R170). -/
def execAvgRead (ch : Channel) (n : Nat) (s : State) : Result :=
  s.act (·.beginAvgRead ch (BitVec.ofNat s.params.cntW n))

end Sys2Proof.Machine
end

