-- ==== Sys2Proof/Machine/Calibration.lean ====
section
/-! DEFINITION. Calibration: CALIBRATE (spec 43), the only writer of an offset register after reset. -/

namespace Sys2Proof.Machine

variable {p : Params}

/-- `q <- truncdiv(SUM, n)` into the channel's offset register (R160, R161), where it always fits
in the reachable states (R163, log 23). -/
def Engine.storeMean (ch : Channel) (n : p.Count) (e : Engine p) : Engine p :=
  e.setOffset ch (fitted p.accW (truncdiv e.sum.toInt n.toNat))

/-- The head of CALIBRATE's loop (R160): another READRAW while `CNT` is not 0; then the test of `n`,
which faults for 0 (R162), the division and the end. -/
def calibrateLoop (ch : Channel) (n : p.Count) (e : Engine p) : Outcome p :=
  if e.cnt ≠ 0 then .next (e.beginSelect ch (.calibrate ch n))
  else if n = 0 then .fault .divideByZero
  else .next (e.storeMean ch n).releasePulses.releaseShift.releaseSum.finish

/-- `SUM <- SUM + signed_32(RESULT)`, and one read less to make (R160). It cannot overflow in the
reachable states (R31, log 23). -/
def Engine.addRaw (e : Engine p) : Engine p :=
  { e with sum := fitted p.sumW (e.sum.toInt + e.result.toInt), cnt := e.cnt - 1 }

/-- The start of CALIBRATE (R160). -/
def Engine.beginCalibrate (ch : Channel) (n : p.Count) (e : Engine p) : Outcome p :=
  whenLive e (calibrateLoop ch n { e with sum := 0, cnt := n })

/-- CALIBRATE ch, n (R160). -/
def execCalibrate (ch : Channel) (n : Nat) (s : State) : Result :=
  s.act (·.beginCalibrate ch (BitVec.ofNat s.params.cntW n))

end Sys2Proof.Machine
end

