-- ==== Sys2Proof/Machine/Gain.lean ====
section
/-! DEFINITION. Gain configuration: SETGAIN (spec 41). -/

namespace Sys2Proof.Machine

variable {p : Params}

/-- The write of a channel's gain register. -/
def Engine.setGain (ch : Channel) (g : GainSetting) (e : Engine p) : Engine p :=
  match ch with
  | .a => { e with gainA := g }
  | .b => { e with gainB := g }

/-- The runtime guard: a setting of the channel's own family is stored, any other is silently ignored
(R140, R141). -/
def Engine.offerGain (ch : Channel) (g : GainSetting) (e : Engine p) : Engine p :=
  if inFamily ch g then e.setGain ch g else e

/-- SETGAIN ch, g (R140 to R142): no pin event, `SEQ` stays `IDLE`. -/
def execSetGain (ch : Channel) (g : GainSetting) (s : State) : Result :=
  s.act fun e => whenLive e (.next (e.offerGain ch g))

end Sys2Proof.Machine
end

