-- ==== Sys2Proof/Machine/Lifecycle.lean ====
section
/-! DEFINITION. Lifecycle: CONSTRUCT and TEARDOWN (spec 45), the engine's reset (70 R220) and its
shutdown. -/

namespace Sys2Proof.Machine

variable {p : Params}

/-- The register updates after CONSTRUCT's last call (R180). -/
def Engine.becomeLive (e : Engine p) : Engine p :=
  { e with
    gainA := p.gainAReset
    gainB := .g32
    offsetA := 0
    offsetB := 0
    life := .live }

/-- One engine step of CONSTRUCT: one platform call and what follows it (R180). -/
def constructStep (call : ConstructCall) (e : Engine p) : Engine p :=
  match call with
  | .dirData => { e.pinDir .data .input with seq := .construct .dirClock }
  | .dirClock => { e.pinDir .clock .output with seq := .construct .rise }
  | .rise => { e.pinWrite .high with seq := .construct .delay }
  | .delay => { e.delayUs p.resetDelayUs with seq := .construct .fall }
  | .fall => (e.pinWrite .low).becomeLive.finish

/-- One engine step of TEARDOWN (R183). -/
def teardownStep (call : TeardownCall) (e : Engine p) : Engine p :=
  match call with
  | .dirData => { e.pinDir .data .input with seq := .teardown .dirClock }
  | .dirClock => { (e.pinDir .clock .input).destroyConfig.finish with life := .dead }

/-- The start of CONSTRUCT (R180 to R182): refused while LIVE and with equal pins; else the two pin
registers are written and the first call is next. -/
def Engine.beginConstruct (d c : p.PinId) (e : Engine p) : Outcome p :=
  whenIdle e <|
    if e.life = .live then .refused .wrongLifecycle
    else if d = c then .refused .samePin
    else .next { e with pinData := d, pinClock := c, seq := .construct .dirData }

/-- CONSTRUCT dpin, cpin (R180 to R182). -/
def execConstruct (dpin cpin : Nat) (s : State) : Result :=
  s.act (·.beginConstruct (BitVec.ofNat s.params.pinW dpin) (BitVec.ofNat s.params.pinW cpin))

/-- TEARDOWN (R183): the first call is next. -/
def execTeardown (s : State) : Result :=
  s.act fun e => whenLive e (.next { e with seq := .teardown .dirData })

end Sys2Proof.Machine
end

