-- ==== Sys2Proof/Machine/Engine.lean ====
section
/-! DEFINITION. The engine's own step (spec 10 R40): one platform call of the operation in progress and
the register updates up to the next call. -/

namespace Sys2Proof.Machine

variable {p : Params}

/-- What follows the last pulse of SELECT: the end, where the command is SELECT; else SHIFTIN (R150). -/
def afterSelect (owner : Owner p) (e : Engine p) : Outcome p :=
  match owner with
  | .alone => .next e.releasePulses.finish
  | .readRaw _ | .readCal _ | .calibrate _ _ | .avgRead _ _ => .next (e.beginShiftIn owner)

/-- What follows the raw sample: the end of SHIFTIN or READRAW, the calibrated-read path of READCAL, or
the next turn of CALIBRATE's or AVGREAD's loop (R127, R150, R152, R160, R170). -/
def afterShiftIn (owner : Owner p) (e : Engine p) : Outcome p :=
  match owner with
  | .alone => .next e.releaseShift.finish
  | .readRaw _ => .next e.endRead
  | .readCal ch => calibratedThen ch (fun t => .next t.endRead) e
  | .calibrate ch n => calibrateLoop ch n e.addRaw
  | .avgRead ch n => calibratedThen ch (fun t => avgReadLoop ch n t.addCal) e

/-- One step of the operation in progress. While idle the engine performs no pin event and stays as it
is (R220). -/
def engineStep (e : Engine p) : Outcome p :=
  match e.seq with
  | .idle => .next e
  | .construct call => .next (constructStep call e)
  | .teardown call => .next (teardownStep call e)
  | .select call owner => selectStep call owner (afterSelect owner) e
  | .shiftIn call owner => shiftInStep call owner (afterShiftIn owner) e

/-- At most `k` steps of the operation in progress, and none past its end. -/
def operate : Nat → Engine p → Outcome p
  | 0, e => .next e
  | k + 1, e =>
    if e.seq = .idle then .next e
    else
      match engineStep e with
      | .next t => operate k t
      | .fault f => .fault f
      | .refused r => .refused r

end Sys2Proof.Machine
end

