-- ==== Sys2Proof/Machine/Dispatch.lean ====
section
/-! DEFINITION. Which meaning a command has: HOST issues it, and the engine is left before the first
platform call of its operation (spec 00 R16, 10 R40). -/

namespace Sys2Proof.Machine

def exec (i : Instr) (s : State) : Host.Outcome State Fault Refusal :=
  match i with
  | .construct dpin cpin => Sys2Proof.Machine.execConstruct dpin cpin s
  | .teardown => Sys2Proof.Machine.execTeardown s
  | .setGain ch g => Sys2Proof.Machine.execSetGain ch g s
  | .select ch => Sys2Proof.Machine.execSelect ch s
  | .shiftIn ch => Sys2Proof.Machine.execShiftIn ch s
  | .readRaw ch => Sys2Proof.Machine.execReadRaw ch s
  | .readCal ch => Sys2Proof.Machine.execReadCal ch s
  | .calibrate ch n => Sys2Proof.Machine.execCalibrate ch n s
  | .avgRead ch n => Sys2Proof.Machine.execAvgRead ch n s

end Sys2Proof.Machine
end

