-- ==== Sys2Proof/Machine/Issue.lean ====
section
/-! DEFINITION. HOST issues a command word (spec 30 R100, 60 R193). -/

namespace Sys2Proof.Machine

/-- HOST issues a command word: it is decoded before anything else is looked at (R193), and an illegal
one is refused (R104). -/
def issueWord (w : Word) (s : State) : Host.Outcome State Fault Refusal :=
  match decode s.params w with
  | .ok i => exec i s
  | .error why => .refused (.illegalCommand why)

end Sys2Proof.Machine
end

