-- ==== Sys2Proof/Machine/Step.lean ====
section
/-! DEFINITION. One step of the whole machine: the engine goes on with the operation in progress, or
HOST issues its next command (spec 00 R6, R16). -/

namespace Sys2Proof.Machine

/-- One step: of the engine while an operation is in progress; else HOST issues the next word of its
program, taken from it once (R75, R100); else nothing is left to do and nothing happens (R16, R220). -/
def step (s : State) : Host.Outcome State Fault Refusal :=
  if s.engine.seq = .idle then
    match s.engine.program with
    | [] => .next s
    | w :: rest => issueWord w { s with engine := { s.engine with program := rest } }
  else s.act engineStep

/-- The state in which the very next step issues the word of an opcode-table row: the word stands first
in HOST's program and no operation is in progress, which is when HOST issues (R16, log 4). -/
def State.withFetchWord (s : State) (nbits w : Nat) : State :=
  { s with engine :=
    { s.engine with program := tableWord nbits w :: s.engine.program, seq := .idle } }

end Sys2Proof.Machine
end

