-- ==== Sys2Proof/Safety.lean ====
section
/-! DEFINITION. What claims are said in: the final state (spec 00 R16), the pin event traces of whole
operations (40 R125, R132; 42 R151), and the invariant of the reachable states (10 R28, R30 to R32, R42). -/

namespace Sys2Proof.Machine

variable {p : Params}

/-- A final state (R16): idle, and every command issued. A fault or a refusal is an outcome of a step
and leaves no state. -/
def Engine.Final (e : Engine p) : Prop := e.seq = .idle ∧ e.program = []

/-- `k` steps of the machine, stopping at the first fault or refusal. -/
def run (k : Nat) (s : State) : Result := Host.Core.run core k s

/-! ## Traces -/

/-- The event is a `PinRead` (R62). -/
def PinEvent.isRead : PinEvent p → Bool
  | .read _ _ => true
  | .dir _ _ | .write _ _ | .delay _ => false

/-- `k` reads `HIGH`, then one read `LOW` (R120). -/
def waitTrace (data : p.PinId) (k : Nat) : List (PinEvent p) :=
  List.replicate k (.read data .high) ++ [.read data .low]

/-- `n` times `W(CLK, HIGH)`, `W(CLK, LOW)` (R121, R124). -/
def pulseTrace (clk : p.PinId) : Nat → List (PinEvent p)
  | 0 => []
  | n + 1 => .write clk .high :: .write clk .low :: pulseTrace clk n

/-- For each sampled level the triple `W(CLK, HIGH)`, `R(DATA) = b`, `W(CLK, LOW)` (R122). -/
def sampleTrace (data clk : p.PinId) : List Level → List (PinEvent p)
  | [] => []
  | b :: bs => .write clk .high :: .read data b :: .write clk .low :: sampleTrace data clk bs

/-- The trace of SELECT (R125). -/
def selectTrace (data clk : p.PinId) (k n : Nat) : List (PinEvent p) :=
  waitTrace data k ++ pulseTrace clk n

/-- The trace of SHIFTIN: the wait, the sampled slots and those without a sample, of which the 24th is one
by default (R90, R132). -/
def shiftInTrace (data clk : p.PinId) (k : Nat) (b : List Level) : List (PinEvent p) :=
  waitTrace data k ++ sampleTrace data clk b ++ pulseTrace clk p.lowestBit

/-- The trace of READRAW (R151). -/
def readTrace (data clk : p.PinId) (k₁ n k₂ : Nat) (b : List Level) : List (PinEvent p) :=
  selectTrace data clk k₁ n ++ shiftInTrace data clk k₂ b

/-- What ENV answers to one READRAW: the failed polls of its two waits and the sampled levels. -/
structure Reading where
  polls₁ : Nat
  polls₂ : Nat
  bits : List Level
  deriving DecidableEq, Repr

/-- The reading has the levels that SHIFTIN samples, 23 by default (R128). -/
def Reading.Full (p : Params) (r : Reading) : Prop := r.bits.length = p.sampledBits

/-- The raw sample of a reading (R135). -/
def Reading.raw (p : Params) (r : Reading) : Int := decodeLevels p r.bits

/-- The levels ENV answers in one READRAW (R82, R151). -/
def Reading.script (r : Reading) : List Level :=
  waitScript r.polls₁ ++ (waitScript r.polls₂ ++ r.bits)

/-- The pin events of one READRAW that emits `n` selection pulses (R151). -/
def Reading.trace (data clk : p.PinId) (n : Nat) (r : Reading) : List (PinEvent p) :=
  readTrace data clk r.polls₁ n r.polls₂ r.bits

/-- The number of events of a frame: three for a slot with a sample, two for one without; 71 by default
(R90, R132). -/
def frameEvents (p : Params) : Nat := 3 * p.sampledBits + 2 * p.lowestBit

/-- The number of events of a READRAW that emits `n` selection pulses: `k1 + k2 + 2 * PULSES(g) + 73` by
default (R151). -/
def Reading.events (p : Params) (n : Nat) (r : Reading) : Nat :=
  r.polls₁ + 1 + 2 * n + (r.polls₂ + 1 + frameEvents p)

/-- The same of readings one after another (R160, R170). -/
def scripts (rs : List Reading) : List Level := (rs.map Reading.script).flatten

def traces (data clk : p.PinId) (n : Nat) (rs : List Reading) : List (PinEvent p) :=
  (rs.map (Reading.trace data clk n)).flatten

def eventsOf (p : Params) (n : Nat) (rs : List Reading) : Nat := (rs.map (Reading.events p n)).sum

def rawSum (p : Params) (rs : List Reading) : Int := (rs.map (Reading.raw p)).sum

/-- The calibrated results of readings, in units of one grid step, summed: `FSUM` (R170). -/
def fixedSum (p : Params) (ch : Channel) (gainA : GainSetting) (off : Int) (rs : List Reading) : Int :=
  (rs.map fun r => fixedPoint p ch gainA (r.raw p) off).sum

/-! ## Places in an operation -/

/-- The next call is the last of the frame: the falling edge of the last slot without a sample, which the
24th is by default, or of the last slot where every one is sampled (R90, R129). -/
def LastCall (owner : Owner p) (e : Engine p) : Prop :=
  (e.seq = .shiftIn .plainFall owner ∧ e.bit.toNat ≤ 1) ∨
  (p.lowestBit = 0 ∧ e.seq = .shiftIn .fall owner ∧ e.bit.toNat = 0)

/-! ## The invariant -/

/-- The largest raw sample: every sampled bit below the sign set; `2^23 - 2` by default (R131). -/
def rawMax (p : Params) : Int := 2 ^ (p.sampleBits - 1) - 2 ^ p.lowestBit

/-- A value in the range of raw samples, `-2^23 .. 2^23 - 2` by default (R131). -/
def RawRange (p : Params) (v : Int) : Prop := -2 ^ (p.sampleBits - 1) ≤ v ∧ v ≤ rawMax p

/-- The bound of a calibrated result in grid steps, `2^31 - 256` by default (R155). -/
def calMax (p : Params) : Int := (2 ^ p.sampleBits - 2 ^ p.lowestBit) * 2 ^ p.fracBits

/-- The configuration registers of a constructed engine (R28), its two pins apart (R181) and its line
directions (R42). -/
structure Configured (e : Engine p) : Prop where
  gainB : e.gainB = .g32
  gainA : inFamily .a p.gainAReset = true → inFamily .a e.gainA = true
  offsetA : RawRange p e.offsetA.toInt
  offsetB : RawRange p e.offsetB.toInt
  pins : e.pinData ≠ e.pinClock
  dirData : e.dirData = .input
  dirClock : e.dirClock = .output

/-- The accumulators while an operation is in progress: `SUM` and `FSUM` are sums of the reads made so
far, each within its bound (R31, R32, R155), and at least one read is still to be made. -/
def OwnerInv (owner : Owner p) (e : Engine p) : Prop :=
  match owner with
  | .alone | .readRaw _ | .readCal _ => True
  | .calibrate _ n =>
    1 ≤ e.cnt.toNat ∧ e.cnt.toNat ≤ n.toNat ∧
      (n.toNat - e.cnt.toNat : Int) * -2 ^ (p.sampleBits - 1) ≤ e.sum.toInt ∧
      e.sum.toInt ≤ (n.toNat - e.cnt.toNat : Int) * rawMax p
  | .avgRead _ n =>
    1 ≤ e.cnt.toNat ∧ e.cnt.toNat ≤ n.toNat ∧
      |e.fsum.toInt| ≤ (n.toNat - e.cnt.toNat : Int) * calMax p

/-- The clock level at a place in SELECT (R121, R123). -/
def SelectInv (call : SelectCall) (e : Engine p) : Prop :=
  match call with
  | .poll => e.clkOut = .low
  | .rise => e.clkOut = .low ∧ e.pcnt ≠ 0
  | .fall => e.clkOut = .high ∧ e.pcnt ≠ 0

/-- In a sampled slot with bits from `i` down still to come: `BIT` is the index of one that is sampled, and
`ACC` holds nothing above the sample or below bit `i` (R30, R128). -/
def SampleInv (i : Nat) (e : Engine p) : Prop :=
  p.lowestBit ≤ e.bit.toNat ∧ e.bit.toNat < p.sampleBits ∧ e.acc.toNat < 2 ^ p.sampleBits ∧
    2 ^ i ∣ e.acc.toNat

/-- In a slot without a sample: how many are still to come, and the whole sample is in `ACC` (R128, R129). -/
def PlainInv (e : Engine p) : Prop :=
  1 ≤ e.bit.toNat ∧ e.bit.toNat ≤ p.lowestBit ∧ e.acc.toNat < 2 ^ p.sampleBits ∧
    2 ^ p.lowestBit ∣ e.acc.toNat

/-- The clock level and the accumulator at a place in SHIFTIN (R30, R123, R128). -/
def ShiftInInv (call : ShiftInCall) (e : Engine p) : Prop :=
  match call with
  | .poll => e.clkOut = .low
  | .rise => e.clkOut = .low ∧ SampleInv (e.bit.toNat + 1) e
  | .sample => e.clkOut = .high ∧ SampleInv (e.bit.toNat + 1) e
  | .fall => e.clkOut = .high ∧ SampleInv e.bit.toNat e
  | .plainRise => e.clkOut = .low ∧ PlainInv e
  | .plainFall => e.clkOut = .high ∧ PlainInv e

/-- What CONSTRUCT has done at each of its calls (R180). -/
def ConstructInv (call : ConstructCall) (e : Engine p) : Prop :=
  match call with
  | .dirData => True
  | .dirClock => e.dirData = .input
  | .rise => e.dirData = .input ∧ e.dirClock = .output
  | .delay | .fall => e.dirData = .input ∧ e.dirClock = .output ∧ e.clkOut = .high

/-- What holds between operations (R28, R42): while LIVE the engine is configured and the clock is LOW;
after TEARDOWN both lines are inputs. -/
def IdleInv (e : Engine p) : Prop :=
  match e.life with
  | .unbuilt => True
  | .live => Configured e ∧ e.clkOut = .low
  | .dead => e.dirData = .input ∧ e.dirClock = .input ∧ e.clkOut = .low

/-- The invariant of the reachable states, by the place in the operation in progress. -/
def Engine.Inv (e : Engine p) : Prop :=
  match e.seq with
  | .idle => IdleInv e
  | .construct call => e.life ≠ .live ∧ e.pinData ≠ e.pinClock ∧ ConstructInv call e
  | .teardown .dirData => e.life = .live ∧ Configured e ∧ e.clkOut = .low
  | .teardown .dirClock => e.life = .live ∧ e.dirData = .input ∧ e.clkOut = .low
  | .select call owner => e.life = .live ∧ Configured e ∧ OwnerInv owner e ∧ SelectInv call e
  | .shiftIn call owner => e.life = .live ∧ Configured e ∧ OwnerInv owner e ∧ ShiftInInv call e

/-- The invariant of a state is that of its engine. -/
def State.Inv (s : State) : Prop := s.engine.Inv

end Sys2Proof.Machine
end

