-- ==== Sys2Proof/Certificates/Slice0/Obligations.lean ====
section
/-! DEFINITION. The statements for the provers: what the numbered rules of the spec say the engine does. -/

open Sys2Proof Sys2Proof.Machine

/-! ## Encoding -/

/-- R107: the words the spec writes beside its twenty assembly examples decode to what they say. -/
def Obligations.AssemblyExamplesDecode : Prop :=
  decode Params.literal 0x10000203 = .ok (.construct 2 3) ∧
  decode Params.literal 0x20000000 = .ok .teardown ∧
  decode Params.literal 0x30000000 = .ok (.setGain .a .g128) ∧
  decode Params.literal 0x32000000 = .ok (.setGain .a .g64) ∧
  decode Params.literal 0x34000000 = .ok (.setGain .a .g32) ∧
  decode Params.literal 0x38000000 = .ok (.setGain .b .g128) ∧
  decode Params.literal 0x3A000000 = .ok (.setGain .b .g64) ∧
  decode Params.literal 0x3C000000 = .ok (.setGain .b .g32) ∧
  decode Params.literal 0x40000000 = .ok (.select .a) ∧
  decode Params.literal 0x48000000 = .ok (.select .b) ∧
  decode Params.literal 0x50000000 = .ok (.shiftIn .a) ∧
  decode Params.literal 0x58000000 = .ok (.shiftIn .b) ∧
  decode Params.literal 0x60000000 = .ok (.readRaw .a) ∧
  decode Params.literal 0x68000000 = .ok (.readRaw .b) ∧
  decode Params.literal 0x70000000 = .ok (.readCal .a) ∧
  decode Params.literal 0x78000000 = .ok (.readCal .b) ∧
  decode Params.literal 0x80000010 = .ok (.calibrate .a 16) ∧
  decode Params.literal 0x88000010 = .ok (.calibrate .b 16) ∧
  decode Params.literal 0x90000004 = .ok (.avgRead .a 4) ∧
  decode Params.literal 0x98000010 = .ok (.avgRead .b 16)

/-- R101 to R103, R109: every well-formed command survives its word, with every operand at every value,
whatever the parameters; for others than the defaults the field widths are the model's choice (log 21). -/
def Obligations.DecodeOfEncode : Prop :=
  ∀ (p : Params) (i : Instr), i.WellFormed p → decode p (encode p i) = .ok i

/-- R109: no two legal words decode to the same operation and operands, because each is the word of
what it decodes to, which is well formed. The field widths for parameters other than the defaults are the
model's choice (log 21). -/
def Obligations.EncodeOfDecode : Prop :=
  ∀ (p : Params) (w : Word) (i : Instr), decode p w = .ok i → i.WellFormed p ∧ encode p i = w

/-- R104: each ground of illegality, and no other, is what the decoder names; the all-zero and the
all-ones words are illegal; the spellings that R104 calls legal are legal. The masks of the default
formats are those R101 draws; the field widths for other parameters are the model's (log 21). -/
def Obligations.DecodeNamesTheGround : Prop :=
  (∀ (p : Params) (w : Word),
    (decode p w = .error .reservedOpcode ↔ w.opcode = 0 ∨ 10 ≤ w.opcode) ∧
    (decode p w = .error .reservedBits ↔
      1 ≤ w.opcode ∧ w.opcode ≤ 9 ∧ w &&& reservedMask p w.opcode ≠ 0) ∧
    (decode p w = .error .reservedGain ↔
      w.opcode = 3 ∧ w &&& reservedMask p w.opcode = 0 ∧ w.extractLsb' 25 2 = 3) ∧
    ((∃ i, decode p w = .ok i) ↔ Word.legal p w = true)) ∧
  (∀ p : Params, Word.legal p 0 = false ∧ Word.legal p 0xFFFFFFFF = false) ∧
  (∀ (p : Params) (ch : Channel) (g : GainSetting) (d : Nat), d < 2 ^ p.pinField →
    Word.legal p (encode p (.setGain ch g)) = true ∧
    Word.legal p (encode p (.calibrate ch 0)) = true ∧
    Word.legal p (encode p (.avgRead ch 0)) = true ∧
    Word.legal p (encode p (.construct d d)) = true) ∧
  (reservedMask Params.literal 1 = 0x0FFF0000 ∧ reservedMask Params.literal 2 = 0x0FFFFFFF ∧
    reservedMask Params.literal 3 = 0x01FFFFFF ∧ reservedMask Params.literal 4 = 0x07FFFFFF ∧
    reservedMask Params.literal 5 = 0x07FFFFFF ∧ reservedMask Params.literal 6 = 0x07FFFFFF ∧
    reservedMask Params.literal 7 = 0x07FFFFFF ∧ reservedMask Params.literal 8 = 0x07FF0000 ∧
    reservedMask Params.literal 9 = 0x07FF0000)

/-- R108: the four pseudo-instructions; the default count is the assembler's, never the engine's, and is
`DEFAULT_COUNT`, 16 by default. How a line is cut into words is the model's choice (log 16), and so is the count field
for a `CNT_W` other than the default (log 21). -/
def Obligations.PseudoInstructionsExpand : Prop :=
  (∀ p : Params,
    assemble p ['R', 'E', 'A', 'D', 'C', 'A', 'L', '.', 'A'] = some (.readCal .a) ∧
    assemble p ['R', 'E', 'A', 'D', 'C', 'A', 'L', '.', 'B'] = some (.readCal .b) ∧
    (p.defaultCount < 2 ^ p.countField →
      assemble p ['C', 'A', 'L', 'I', 'B', 'R', 'A', 'T', 'E', ' ', 'A'] =
        some (.calibrate .a p.defaultCount) ∧
      assemble p ['C', 'A', 'L', 'I', 'B', 'R', 'A', 'T', 'E', ' ', 'B'] =
        some (.calibrate .b p.defaultCount) ∧
      assemble p ['A', 'V', 'G', 'R', 'E', 'A', 'D', ' ', 'A'] = some (.avgRead .a p.defaultCount) ∧
      assemble p ['A', 'V', 'G', 'R', 'E', 'A', 'D', ' ', 'B'] = some (.avgRead .b p.defaultCount))) ∧
  Params.literal.defaultCount = 16 ∧
  decode Params.literal 0x80000000 = .ok (.calibrate .a 0) ∧
  decode Params.literal 0x90000000 = .ok (.avgRead .a 0)

/-! ## Steps

A statement about a whole operation says that `exec` issues the command, and then what the engine's
steps, one for each pin event (R40), come to. That issuing is a step of its own is log 2. -/

/-- R16, R100: while idle, the next word of HOST's program is taken from it and its command is executed;
the same of a word of the opcode table placed first.
That issuing is a step, and that HOST is a list, are the model's choices (log 2, log 4). -/
def Obligations.StepIssuesTheDecodedCommand : Prop :=
  (∀ (p : Params) (e : Engine p) (w : Word) (rest : List Word) (i : Instr),
    e.seq = .idle → e.program = w :: rest → decode p w = .ok i →
      step ⟨p, e⟩ = exec i ⟨p, { e with program := rest }⟩) ∧
  (∀ (e : Engine Params.literal) (nbits w : Nat) (i : Instr), decodeTableWord nbits w = some i →
    step (State.withFetchWord ⟨Params.literal, e⟩ nbits w) =
      exec i ⟨Params.literal, { e with seq := .idle }⟩)

/-- R104, R193: an illegal word is refused by the ground the decoder names, before the lifecycle or
anything else of the state is looked at. -/
def Obligations.StepRefusesIllegalWords : Prop :=
  ∀ (p : Params) (e : Engine p) (w : Word) (rest : List Word) (why : Illegal),
    e.seq = .idle → e.program = w :: rest → decode p w = .error why →
      step ⟨p, e⟩ = .refused (.illegalCommand why)

/-- R220, R16: an idle engine that is given no command stays as it is, for ever.
That such a step gives a next state is the model's choice (log 4). -/
def Obligations.IdleEngineStays : Prop :=
  ∀ (p : Params) (e : Engine p) (k : Nat), e.Final → run k ⟨p, e⟩ = .next ⟨p, e⟩

/-- R40, R72: while an operation is in progress each step makes exactly one platform call, and takes
nothing from HOST. -/
def Obligations.OneCallPerEngineStep : Prop :=
  ∀ (p : Params) (e t : Engine p), e.seq ≠ .idle → step ⟨p, e⟩ = .next ⟨p, t⟩ →
    (∃ ev, t.trace = e.trace ++ [ev]) ∧ t.program = e.program

/-- R66: every event the engine can produce, by pin; with two distinct pins it never writes DATA, reads
CLOCK or sets DATA to output. The delay is `T(100)` by default. -/
def Obligations.EngineEventsAreOnItsTwoPins : Prop :=
  Params.literal.resetDelayUs = 100 ∧
  ∀ (p : Params) (e t : Engine p), step ⟨p, e⟩ = .next ⟨p, t⟩ →
    t.trace = e.trace ∨
    ∃ ev, t.trace = e.trace ++ [ev] ∧
      (ev = .dir e.pinData .input ∨ (∃ l, ev = .read e.pinData l) ∨
       ev = .dir e.pinClock .output ∨ ev = .dir e.pinClock .input ∨
       (∃ l, ev = .write e.pinClock l) ∨ ev = .delay p.resetDelayUs) ∧
      (e.pinData ≠ e.pinClock →
        (∀ l, ev ≠ .write e.pinData l ∧ ev ≠ .read e.pinClock l) ∧ ev ≠ .dir e.pinData .output)

/-- R63: while LIVE the engine never writes the level the clock already holds. -/
def Obligations.WritesAlternateWhileLive : Prop :=
  ∀ (p : Params) (e t : Engine p) (pin : p.PinId) (l : Level), e.Inv → e.life = .live →
    step ⟨p, e⟩ = .next ⟨p, t⟩ → t.trace = e.trace ++ [.write pin l] →
      pin = e.pinClock ∧ e.clkOut ≠ l ∧ t.clkOut = l

/-- The model's granularity (log 2): to issue a command is a step of HOST that touches no pin. It changes
`SEQ` and what R180, R140, R124, R160 and R170 put before the first platform call, and nothing else. -/
def Obligations.IssuingTouchesNoPin : Prop :=
  ∀ (p : Params) (i : Instr) (e t : Engine p), exec i ⟨p, e⟩ = .next ⟨p, t⟩ →
    t = { e with
      seq := t.seq, pinData := t.pinData, pinClock := t.pinClock, gainA := t.gainA,
      gainB := t.gainB, pcnt := t.pcnt, sum := t.sum, fsum := t.fsum, cnt := t.cnt } ∧
    ((∀ d c, i ≠ .construct d c) → t.pinData = e.pinData ∧ t.pinClock = e.pinClock) ∧
    ((∀ ch g, i ≠ .setGain ch g) → t.gainA = e.gainA ∧ t.gainB = e.gainB) ∧
    ((∀ ch n, i ≠ .calibrate ch n) → t.sum = e.sum) ∧
    ((∀ ch n, i ≠ .avgRead ch n) → t.fsum = e.fsum)

/-- R5: the parameters are arguments of the machine and no step, of HOST or of the engine, writes them.
That they stand in the state is the model's choice (log 15). -/
def Obligations.ParametersNeverChange : Prop :=
  (∀ (s t : State) (i : Instr), exec i s = .next t → t.params = s.params) ∧
  (∀ (s t : State) (k : Nat), run k s = .next t → t.params = s.params)

/-! ## Reset and lifecycle -/

/-- R220, R45: at power-on the engine is UNBUILT and IDLE, no event has happened, and it stays so until
a command is issued, which must be CONSTRUCT.
That `State.reset` is the power-on state, with the default parameters, is the model's choice (log 5). -/
def Obligations.PowerOnAwaitsConstruct : Prop :=
  State.reset = ⟨Params.literal, Engine.powerOn Params.literal⟩ ∧
  ∀ p : Params,
    (Engine.powerOn p).life = .unbuilt ∧ (Engine.powerOn p).seq = .idle ∧
    (Engine.powerOn p).trace = [] ∧
    (∀ k, run k ⟨p, Engine.powerOn p⟩ = .next ⟨p, Engine.powerOn p⟩) ∧
    (∀ i : Instr, (∀ d c, i ≠ .construct d c) →
      exec i ⟨p, Engine.powerOn p⟩ = .refused .wrongLifecycle)

/-- R180: what CONSTRUCT does, from every state it may be issued in: five events, and the registers. By
default the delay is 100 and the gain of A is `G128`. -/
def Obligations.ConstructCompletes : Prop :=
  Params.literal.resetDelayUs = 100 ∧ Params.literal.gainAReset = .g128 ∧
  ∀ (p : Params) (e : Engine p) (d c : p.PinId), e.seq = .idle → e.life ≠ .live → d ≠ c →
    ∃ t, exec (.construct d.toNat c.toNat) ⟨p, e⟩ = .next ⟨p, t⟩ ∧
      run 5 ⟨p, t⟩ = .next ⟨p, { e with
        life := .live
        pinData := d
        pinClock := c
        gainA := p.gainAReset
        gainB := .g32
        offsetA := 0
        offsetB := 0
        clkOut := .low
        dirData := .input
        dirClock := .output
        trace := e.trace ++ [.dir d .input, .dir c .output, .write c .high, .delay p.resetDelayUs,
          .write c .low] }⟩

/-- R181: CONSTRUCT with equal pins is refused. -/
def Obligations.ConstructWithEqualPinsIsRefused : Prop :=
  ∀ (p : Params) (e : Engine p) (n : Nat), e.seq = .idle → e.life ≠ .live →
    exec (.construct n n) ⟨p, e⟩ = .refused .samePin

/-- R182: CONSTRUCT while LIVE is refused; from DEAD it gives the same state as from UNBUILT, whatever
the configuration registers held. -/
def Obligations.ConstructForgetsThePast : Prop :=
  (∀ (p : Params) (e : Engine p) (d c : Nat), e.seq = .idle → e.life = .live →
    exec (.construct d c) ⟨p, e⟩ = .refused .wrongLifecycle) ∧
  (∀ (p : Params) (e : Engine p) (d c x y : p.PinId) (gA gB : GainSetting) (oA oB : p.Container),
    e.seq = .idle → d ≠ c →
    ∃ t t' u, exec (.construct d.toNat c.toNat) ⟨p, { e with life := .unbuilt }⟩ = .next ⟨p, t⟩ ∧
      exec (.construct d.toNat c.toNat) ⟨p, { e with
        life := .dead, pinData := x, pinClock := y, gainA := gA, gainB := gB, offsetA := oA,
        offsetB := oB }⟩ = .next ⟨p, t'⟩ ∧
      run 5 ⟨p, t⟩ = .next u ∧ run 5 ⟨p, t'⟩ = .next u)

/-- R183: what TEARDOWN does. The configuration registers hold unspecified values `v` afterwards. -/
def Obligations.TeardownCompletes : Prop :=
  ∀ (p : Params) (e : Engine p), e.seq = .idle → e.life = .live →
    ∃ t, exec .teardown ⟨p, e⟩ = .next ⟨p, t⟩ ∧ ∃ (v : Unspecified p) (d : Nat),
      run 2 ⟨p, t⟩ = .next ⟨p, { e with
        life := .dead
        pinData := v.pinData
        pinClock := v.pinClock
        gainA := v.gainA
        gainB := v.gainB
        offsetA := v.offsetA
        offsetB := v.offsetB
        dirData := .input
        dirClock := .input
        trace := e.trace ++ [.dir e.pinData .input, .dir e.pinClock .input]
        draws := d }⟩

/-- R196: every command but CONSTRUCT is refused unless LIVE, CONSTRUCT is refused while LIVE. -/
def Obligations.WrongLifecycleIsRefused : Prop :=
  ∀ (p : Params) (e : Engine p) (i : Instr), e.seq = .idle →
    (e.life ≠ .live → (∀ d c, i ≠ .construct d c) → exec i ⟨p, e⟩ = .refused .wrongLifecycle) ∧
    (e.life = .live → (∃ d c, i = .construct d c) → exec i ⟨p, e⟩ = .refused .wrongLifecycle)

/-- R7, R191: a command while an operation is in progress is refused. That the refusal is `busy` whatever
`LIFE` is, so that this check comes before the lifecycle is looked at, is the model's deduction (log 18,
DEDUCED): R193 only says "busy and lifecycle". -/
def Obligations.BusyEngineRefusesEveryCommand : Prop :=
  ∀ (p : Params) (e : Engine p) (i : Instr), e.seq ≠ .idle → exec i ⟨p, e⟩ = .refused .busy

/-- R22, R23: the pin identifiers are immutable while the engine stays LIVE. -/
def Obligations.PinsAreImmutableWhileLive : Prop :=
  ∀ (p : Params) (e t : Engine p), step ⟨p, e⟩ = .next ⟨p, t⟩ → e.life = .live → t.life = .live →
    t.pinData = e.pinData ∧ t.pinClock = e.pinClock

/-! ## SETGAIN -/

/-- R142, R141: all six operand pairs, as equations of whole states (no pin event, `RESULT` and every
other register unchanged), and idempotence. -/
def Obligations.SetGainTable : Prop :=
  (∀ (p : Params) (e : Engine p), e.seq = .idle → e.life = .live →
    exec (.setGain .a .g128) ⟨p, e⟩ = .next ⟨p, { e with gainA := .g128 }⟩ ∧
    exec (.setGain .a .g64) ⟨p, e⟩ = .next ⟨p, { e with gainA := .g64 }⟩ ∧
    exec (.setGain .a .g32) ⟨p, e⟩ = .next ⟨p, e⟩ ∧
    exec (.setGain .b .g128) ⟨p, e⟩ = .next ⟨p, e⟩ ∧
    exec (.setGain .b .g64) ⟨p, e⟩ = .next ⟨p, e⟩ ∧
    exec (.setGain .b .g32) ⟨p, e⟩ = .next ⟨p, { e with gainB := .g32 }⟩) ∧
  (∀ (s t : State) (ch : Channel) (g : GainSetting),
    exec (.setGain ch g) s = .next t → exec (.setGain ch g) t = .next t)

/-! ## SELECT and SHIFTIN -/

/-- R124, R125: SELECT polls until LOW, then emits `PULSES(g)` pulses, which is 128, 64 or 32 by its
channel's gain under profile LITERAL, and `PULSES(G32)` for B; and it changes nothing but the clock latch,
the trace, the answers ENV has given and `PCNT`, which is unspecified (`v`) afterwards. -/
def Obligations.SelectCompletes : Prop :=
  (pulses Params.literal .g128 = 128 ∧ pulses Params.literal .g64 = 64 ∧
    pulses Params.literal .g32 = 32) ∧
  ∀ (p : Params) (e : Engine p) (ch : Channel) (k : Nat) (rest : List Level),
    e.seq = .idle → e.life = .live → e.script = waitScript k ++ rest →
    let n := pulses p (e.gainOf ch)
    (e.Inv → ch = .b → n = pulses p .g32) ∧
    (selectTrace e.pinData e.pinClock k n).length = k + 1 + 2 * n ∧
    ∃ t, exec (.select ch) ⟨p, e⟩ = .next ⟨p, t⟩ ∧ ∃ (v d : Nat),
      run (k + 1 + 2 * n) ⟨p, t⟩ = .next ⟨p, { e with
        script := rest
        trace := e.trace ++ selectTrace e.pinData e.pinClock k n
        clkOut := if n = 0 then e.clkOut else .low
        pcnt := v
        draws := d }⟩

/-- R127, R128, R129, R132: SHIFTIN polls until LOW, samples `SAMPLED_BITS` bits and emits the frame's
other pulses without a sample; `RESULT` is the sign-extended pattern. By default that is 23 samples and a
24th pulse, `k + 72` events, 24 rises, 24 falls, `k + 24` reads; for other parameters the shape of the
frame is the model's choice (log 22). `ACC` and `BIT` are unspecified (`v`, `w`) afterwards. -/
def Obligations.ShiftInCompletes : Prop :=
  ∀ (p : Params) (e : Engine p) (ch : Channel) (k : Nat) (b rest : List Level),
    e.seq = .idle → e.life = .live → b.length = p.sampledBits →
    e.script = waitScript k ++ (b ++ rest) →
    let tr := shiftInTrace e.pinData e.pinClock k b
    (tr.length = k + 1 + frameEvents p ∧ tr.count (.write e.pinClock .high) = p.sampleBits ∧
      tr.count (.write e.pinClock .low) = p.sampleBits ∧
      tr.countP PinEvent.isRead = k + 1 + p.sampledBits) ∧
    (p.sampleBits = 24 → p.sampledBits = 23 →
      tr.length = k + 72 ∧ tr.count (.write e.pinClock .high) = 24 ∧
      tr.count (.write e.pinClock .low) = 24 ∧ tr.countP PinEvent.isRead = k + 24 ∧
      tr = waitTrace e.pinData k ++ sampleTrace e.pinData e.pinClock b ++
        [.write e.pinClock .high, .write e.pinClock .low]) ∧
    ∃ t, exec (.shiftIn ch) ⟨p, e⟩ = .next ⟨p, t⟩ ∧
      ∃ (v : p.Container) (w : BitVec 5) (d : Nat),
        run tr.length ⟨p, t⟩ = .next ⟨p, { e with
          script := rest
          trace := e.trace ++ tr
          result := sext (samplePattern p b)
          clkOut := .low
          acc := v
          bit := w
          draws := d }⟩

/-- R130: after the 24th pulse the accumulator is sign-extended from bit 23 into `RESULT`, which is that
24-bit number in two's complement, without an event beside the pulse's own. With other parameters it is
the last pulse and the sample's sign bit; which pulse is the last (`LastCall`), where no slot or several
are without a sample, is the model's choice (log 22, DESIGN CHOICE). That the extension and the write of
`RESULT` belong to the step of that call is its deduction from R40 (log 1, DEDUCED). -/
def Obligations.SignExtensionLaw : Prop :=
  (∀ (p : Params) (b : p.Pattern), (sext b).toInt =
    if b.getLsbD (p.sampleBits - 1) then (b.toNat : Int) - 2 ^ p.sampleBits else (b.toNat : Int)) ∧
  (∀ (p : Params) (e : Engine p), LastCall .alone e → e.acc.toNat < 2 ^ p.sampleBits →
    ∃ t, step ⟨p, e⟩ = .next ⟨p, t⟩ ∧ t.result = sext (e.acc.setWidth p.sampleBits) ∧
      t.trace = e.trace ++ [.write e.pinClock .low] ∧
      t.result = if e.acc.getLsbD (p.sampleBits - 1) then
        e.acc ||| BitVec.allOnes p.accW <<< p.sampleBits else e.acc) ∧
  Params.literal.sampleBits = 24 ∧ BitVec.allOnes 32 <<< 24 = 0xFF000000#32

/-- R131: the formula, the range and the shape of a raw sample; every such value occurs; what SHIFTIN
makes of a chip pattern. By default: an even number in `-8388608 .. 8388606`; for other
parameters the frame is the model's choice (log 22). -/
def Obligations.RawSampleShape : Prop :=
  (∀ (p : Params) (l : Level) (ls : List Level), (l :: ls).length = p.sampledBits →
    (samplePattern p (l :: ls)).toNat = 2 ^ p.lowestBit * levelsNat (l :: ls) ∧
    decodeLevels p (l :: ls) =
      -(l.bit : Int) * 2 ^ (p.sampleBits - 1) + 2 ^ p.lowestBit * levelsNat ls ∧
    2 ^ p.lowestBit ∣ decodeLevels p (l :: ls) ∧ RawRange p (decodeLevels p (l :: ls))) ∧
  (∀ (p : Params) (v : Int), 2 ^ p.lowestBit ∣ v → RawRange p v →
    ∃ b : List Level, b.length = p.sampledBits ∧ decodeLevels p b = v) ∧
  (∀ (p : Params) (b : p.Pattern), (patternLevels b).length = p.sampledBits ∧
    decodeLevels p (patternLevels b) =
      (b &&& BitVec.allOnes p.sampleBits <<< p.lowestBit).toInt ∧
    decodeLevels p (patternLevels b) = b.toInt - (b.toNat % 2 ^ p.lowestBit : Nat)) ∧
  Params.literal.sampleBits = 24 ∧ Params.literal.sampledBits = 23 ∧ Params.literal.lowestBit = 1 ∧
  BitVec.allOnes 24 <<< 1 = 0xFFFFFE#24 ∧
  (∀ v : Int, RawRange Params.literal v ↔ -8388608 ≤ v ∧ v ≤ 8388606)

/-- R133: SHIFTIN depends on neither its operand nor the gains and offsets: with them changed, every step
of it is the same step. -/
def Obligations.ShiftInIgnoresConfiguration : Prop :=
  ∀ (p : Params) (e : Engine p) (ch ch' : Channel) (gA gB : GainSetting) (oA oB : p.Container),
    exec (.shiftIn ch) ⟨p, e⟩ = exec (.shiftIn ch') ⟨p, e⟩ ∧
    ∀ t, exec (.shiftIn ch) ⟨p, e⟩ = .next ⟨p, t⟩ →
      exec (.shiftIn ch) ⟨p, { e with gainA := gA, gainB := gB, offsetA := oA, offsetB := oB }⟩ =
        .next ⟨p, { t with gainA := gA, gainB := gB, offsetA := oA, offsetB := oB }⟩ ∧
      ∀ (k : Nat) (u : Engine p), operate k t = .next u →
        operate k { t with gainA := gA, gainB := gB, offsetA := oA, offsetB := oB } =
          .next { u with gainA := gA, gainB := gB, offsetA := oA, offsetB := oB }

/-- R120, R194: while ENV answers HIGH the wait polls, whatever the operation: each step is one read and
nothing else changes, however long; no fault, no refusal, no end. -/
def Obligations.HighAnswersKeepItWaiting : Prop :=
  ∀ (p : Params) (e : Engine p) (owner : Owner p) (k : Nat) (rest : List Level),
    (e.seq = .select .poll owner ∨ e.seq = .shiftIn .poll owner) →
    e.script = List.replicate k .high ++ rest →
    run k ⟨p, e⟩ = .next ⟨p, { e with
      script := rest
      trace := e.trace ++ List.replicate k (.read e.pinData .high) }⟩

/-! ## READRAW and READCAL -/

/-- R150, R151: READRAW is SELECT, then SHIFTIN with its own wait; its trace, its pulses and its length.
`PCNT`, `ACC` and `BIT` are unspecified afterwards. For parameters other than the defaults the trace, the
pulses and the length rest on the frame that is the model's choice (log 22, DESIGN CHOICE). -/
def Obligations.ReadRawCompletes : Prop :=
  (∀ r : Reading, r.polls₁ = 0 → r.polls₂ = 0 →
    r.events Params.literal (pulses Params.literal .g32) = 137 ∧
    r.events Params.literal (pulses Params.literal .g64) = 201 ∧
    r.events Params.literal (pulses Params.literal .g128) = 329) ∧
  ∀ (p : Params) (e : Engine p) (ch : Channel) (r : Reading) (rest : List Level),
    e.seq = .idle → e.life = .live → r.Full p → e.script = r.script ++ rest →
    let n := pulses p (e.gainOf ch)
    let tr := selectTrace e.pinData e.pinClock r.polls₁ n ++
      shiftInTrace e.pinData e.pinClock r.polls₂ r.bits
    (tr.count (.write e.pinClock .high) = n + p.sampleBits ∧ tr.length = r.events p n ∧
      (p.sampleBits = 24 → p.sampledBits = 23 →
        tr.count (.write e.pinClock .high) = n + 24 ∧
        tr.length = r.polls₁ + r.polls₂ + 2 * n + 73)) ∧
    ∃ t, exec (.readRaw ch) ⟨p, e⟩ = .next ⟨p, t⟩ ∧
      ∃ (x : Nat) (v : p.Container) (w : BitVec 5) (d : Nat),
        run tr.length ⟨p, t⟩ = .next ⟨p, { e with
          script := rest
          trace := e.trace ++ tr
          result := sext (samplePattern p r.bits)
          clkOut := .low
          pcnt := x
          acc := v
          bit := w
          draws := d }⟩

/-- R152: READCAL has the pin events of READRAW and leaves `(raw - off) * (128 / DIV(ch))` in `RESULT`,
where that fits the register; 128 is `2 ^ FRAC_BITS`. For parameters other than the defaults the frame is
the model's choice (log 22). -/
def Obligations.ReadCalCompletes : Prop :=
  Params.literal.fracBits = 7 ∧ Params.literal.accW = 32 ∧
  ∀ (p : Params) (e : Engine p) (ch : Channel) (r : Reading) (rest : List Level),
    e.seq = .idle → e.life = .live → r.Full p → e.script = r.script ++ rest →
    let n := pulses p (e.gainOf ch)
    let value : Int :=
      (r.raw p - (e.offsetOf ch).toInt) * ((2 ^ p.fracBits / divisor ch e.gainA : Nat) : Int)
    value.natAbs < 2 ^ (p.accW - 1) →
    ∃ t, exec (.readCal ch) ⟨p, e⟩ = .next ⟨p, t⟩ ∧
      ∃ (x : Nat) (v : p.Container) (w : BitVec 5) (d : Nat),
        run (r.events p n) ⟨p, t⟩ = .next ⟨p, { e with
          script := rest
          trace := e.trace ++ r.trace e.pinData e.pinClock n
          result := BitVec.ofInt p.accW value
          clkOut := .low
          pcnt := x
          acc := v
          bit := w
          draws := d }⟩

/-- R156: where the product does not fit, READCAL has no meaning: the step that would store it is
refused.
That it is refused there and not before the read is the model's choice (log 12), and so is the frame for
parameters other than the defaults (log 22). -/
def Obligations.ReadCalRefusesWhatDoesNotFit : Prop :=
  ∀ (p : Params) (e : Engine p) (ch : Channel) (r : Reading) (rest : List Level),
    e.seq = .idle → e.life = .live → r.Full p → e.script = r.script ++ rest →
    2 ^ (p.accW - 1) ≤
      (r.raw p - (e.offsetOf ch).toInt).natAbs * (2 ^ p.fracBits / divisor ch e.gainA) →
    ∃ t, exec (.readCal ch) ⟨p, e⟩ = .next ⟨p, t⟩ ∧
      run (r.events p (pulses p (e.gainOf ch))) ⟨p, t⟩ = .refused .resultOverflow

/-- R153: the divisor table, and that the invariant keeps its fallback row from being used where
`GAIN_A_RESET` is in `FAM_A` (R28). -/
def Obligations.DivisorTable : Prop :=
  divisor .a .g128 = 128 ∧ scale Params.literal .a .g128 = 1 ∧
  divisor .a .g64 = 64 ∧ scale Params.literal .a .g64 = 2 ∧
  divisor .a .g32 = 1 ∧ scale Params.literal .a .g32 = 128 ∧
  (∀ g, divisor .b g = 32 ∧ scale Params.literal .b g = 4) ∧
  (∀ (p : Params) (ch : Channel) (g : GainSetting), scale p ch g * divisor ch g = 2 ^ p.fracBits) ∧
  (∀ (p : Params) (e : Engine p), e.Inv → e.seq = .idle → e.life = .live →
    inFamily .a p.gainAReset = true → divisor .a e.gainA ≠ 1)

/-- R155, R154: in the reachable ranges the product fits its register, and the word stands for exactly
the rational `(raw - off) / DIV(ch)`; it is 0 exactly when `raw = off`. By default the bounds are
`2^24 - 2` and `2^31 - 256`; for other parameters the range rests on the model's choices (log 15, log 22). -/
def Obligations.CalibratedResultIsExact : Prop :=
  ((2 : Int) ^ Params.literal.sampleBits - 2 ^ Params.literal.lowestBit = 2 ^ 24 - 2 ∧
    calMax Params.literal = 2 ^ 31 - 256) ∧
  ∀ (p : Params) (ch : Channel) (g : GainSetting) (raw off : Int), RawRange p raw → RawRange p off →
    |raw - off| ≤ 2 ^ p.sampleBits - 2 ^ p.lowestBit ∧
    |fixedPoint p ch g raw off| ≤ calMax p ∧ calMax p < 2 ^ (p.accW - 1) ∧
    (BitVec.ofInt p.accW (fixedPoint p ch g raw off)).toInt =
      (raw - off) * ((2 ^ p.fracBits / divisor ch g : Nat) : Int) ∧
    resultValue (BitVec.ofInt p.accW (fixedPoint p ch g raw off) : p.Container) =
      calibratedValue ch g raw off ∧
    (BitVec.ofInt p.accW (fixedPoint p ch g raw off) = 0 ↔ raw = off)

/-! ## CALIBRATE -/

/-- R160: CALIBRATE makes `n` READRAWs and stores the truncated mean in its channel's offset, once, at the
end; `RESULT` is left at the last raw sample; the other offset and both gains are unchanged. The
registers it used are unspecified afterwards. For parameters other than the defaults the frame is the
model's choice (log 22). -/
def Obligations.CalibrateCompletes : Prop :=
  ∀ (p : Params) (e : Engine p) (ch : Channel) (n : p.Count) (rs : List Reading) (last : Reading)
    (rest : List Level), e.seq = .idle → e.life = .live →
    rs.length + 1 = n.toNat → (∀ r ∈ rs ++ [last], r.Full p) →
    e.script = scripts (rs ++ [last]) ++ rest →
    let k := pulses p (e.gainOf ch)
    let q := BitVec.ofInt p.accW (truncdiv (rawSum p (rs ++ [last])) n.toNat)
    ∃ t, exec (.calibrate ch n.toNat) ⟨p, e⟩ = .next ⟨p, t⟩ ∧
      ∃ (x : Nat) (v : p.Container) (w : BitVec 5) (m : p.Sum) (c : p.Count) (d : Nat),
        run (eventsOf p k (rs ++ [last])) ⟨p, t⟩ = .next ⟨p, { e with
          script := rest
          trace := e.trace ++ traces e.pinData e.pinClock k (rs ++ [last])
          offsetA := if ch = .a then q else e.offsetA
          offsetB := if ch = .b then q else e.offsetB
          result := sext (samplePattern p last.bits)
          clkOut := .low
          pcnt := x
          acc := v
          bit := w
          sum := m
          cnt := c
          draws := d }⟩

/-- R163: the stored offset always fits, and lies in the range of raw samples; it need not be even.
For parameters other than the defaults the range and the width of the register are the model's (log 22,
DESIGN CHOICE; log 15, DEDUCED). -/
def Obligations.StoredOffsetFits : Prop :=
  truncdiv (2 + 4) 2 = 3 ∧ (∀ v : Int, RawRange Params.literal v ↔ -2 ^ 23 ≤ v ∧ v ≤ 2 ^ 23 - 2) ∧
  ∀ (p : Params) (rs : List Reading), rs ≠ [] → (∀ r ∈ rs, r.Full p) →
    (rs.length : Int) * -2 ^ (p.sampleBits - 1) ≤ rawSum p rs ∧
    rawSum p rs ≤ rs.length * rawMax p ∧
    RawRange p (truncdiv (rawSum p rs) rs.length) ∧
    (BitVec.ofInt p.accW (truncdiv (rawSum p rs) rs.length)).toInt =
      truncdiv (rawSum p rs) rs.length

/-- R161: the mean is rounded toward zero, and the mean of `n` equal samples is the sample. -/
def Obligations.MeanTruncatesTowardZero : Prop :=
  truncdiv 1001 4 = 250 ∧ truncdiv (-1001) 4 = -250 ∧ truncdiv (-2) 16 = 0 ∧
  (∀ a n : Int, 0 < n → ∃ r, a = truncdiv a n * n + r ∧ r.natAbs < n.natAbs ∧
    (0 ≤ a → 0 ≤ r) ∧ (a ≤ 0 → r ≤ 0)) ∧
  (∀ (p : Params) (rs : List Reading) (V : Int), rs ≠ [] → (∀ r ∈ rs, r.raw p = V) →
    truncdiv (rawSum p rs) rs.length = V)

/-- R165: after CALIBRATE with every raw read equal to `V`, a READCAL whose raw read is `V` gives 0.
For parameters other than the defaults the frame is the model's choice (log 22). -/
def Obligations.ReadAfterConstantCalibrationIsZero : Prop :=
  ∀ (p : Params) (e : Engine p) (ch : Channel) (n : p.Count) (rs : List Reading) (last r : Reading)
    (V : Int) (rest : List Level), e.seq = .idle → e.life = .live →
    rs.length + 1 = n.toNat → (∀ x ∈ rs ++ [last, r], x.Full p ∧ x.raw p = V) →
    e.script = scripts (rs ++ [last]) ++ (r.script ++ rest) →
    let k := pulses p (e.gainOf ch)
    ∃ t u t' u', exec (.calibrate ch n.toNat) ⟨p, e⟩ = .next ⟨p, t⟩ ∧
      run (eventsOf p k (rs ++ [last])) ⟨p, t⟩ = .next ⟨p, u⟩ ∧ (u.offsetOf ch).toInt = V ∧
      exec (.readCal ch) ⟨p, u⟩ = .next ⟨p, t'⟩ ∧ run (r.events p k) ⟨p, t'⟩ = .next ⟨p, u'⟩ ∧
      u'.seq = .idle ∧ u'.result = 0

/-- R162, R172: with a count of 0 nothing is read and the division faults, on every state that may issue
the command. That the fault falls in the issuing step is deduced (log 13). -/
def Obligations.CountZeroFaults : Prop :=
  ∀ (p : Params) (e : Engine p) (ch : Channel), e.seq = .idle → e.life = .live →
    exec (.calibrate ch 0) ⟨p, e⟩ = .fault .divideByZero ∧
    exec (.avgRead ch 0) ⟨p, e⟩ = .fault .divideByZero

/-! ## AVGREAD -/

/-- R170: AVGREAD makes `n` READCALs and leaves the rounded mean of their results in `RESULT`; no
configuration register changes. The registers it used are unspecified afterwards.
The rounding modes other than truncation are the model's choice (log 11), and so is the frame for
parameters other than the defaults (log 22). The premise on `n` and the offset holds at the defaults; where
it does not, the sum may not fit `FSUM`, whose value the model then leaves free (log 23). -/
def Obligations.AvgReadCompletes : Prop :=
  ∀ (p : Params) (e : Engine p) (ch : Channel) (n : p.Count) (rs : List Reading) (rest : List Level),
    e.seq = .idle → e.life = .live → n ≠ 0 → rs.length = n.toNat → (∀ r ∈ rs, r.Full p) →
    (∀ r ∈ rs, (fixedPoint p ch e.gainA (r.raw p) (e.offsetOf ch).toInt).natAbs < 2 ^ (p.accW - 1)) →
    (n.toNat * 2 ^ (p.accW - 1) ≤ 2 ^ 63 ∨ (RawRange p (e.offsetOf ch).toInt)) →
    e.script = scripts rs ++ rest →
    let k := pulses p (e.gainOf ch)
    ∃ t, exec (.avgRead ch n.toNat) ⟨p, e⟩ = .next ⟨p, t⟩ ∧
      ∃ (x : Nat) (v : p.Container) (w : BitVec 5) (m : BitVec 64) (c : p.Count) (d : Nat),
        run (eventsOf p k rs) ⟨p, t⟩ = .next ⟨p, { e with
          script := rest
          trace := e.trace ++ traces e.pinData e.pinClock k rs
          result := BitVec.ofInt p.accW
            (roundDiv p.avgRound (fixedSum p ch e.gainA (e.offsetOf ch).toInt rs) n.toNat)
          clkOut := .low
          pcnt := x
          acc := v
          bit := w
          fsum := m
          cnt := c
          draws := d }⟩

/-- R171: the mean is less than one grid step off in every mode, exact where `n` divides `FSUM`, truncated
toward zero by default, and never larger in size than the largest term.
The modes other than truncation are the model's choice (log 11). -/
def Obligations.AverageRounding : Prop :=
  (∀ (mode : Rounding) (a n : Int), 0 < n →
    (a - roundDiv mode a n * n).natAbs < n.natAbs ∧ (n ∣ a → roundDiv mode a n * n = a) ∧
    roundDiv .towardZero a n = truncdiv a n ∧
    (∀ B : Int, a.natAbs ≤ (n * B).natAbs → (roundDiv mode a n).natAbs ≤ B.natAbs)) ∧
  Params.literal.avgRound = .towardZero

/-! ## Frames over every step -/

/-- R29: SELECT, SHIFTIN, READRAW, READCAL and AVGREAD write none of the six configuration registers, and
CALIBRATE none but its own channel's offset; none of them touches `LIFE`, the directions or `RESULT`
but at the last call of SHIFTIN. Whatever ENV answers. That the writes after a sample fall in the step of
SHIFTIN's last call is the model's deduction from R40 (log 1, DEDUCED); which call that is (`LastCall`) for
parameters other than the defaults is the model's choice (log 22, DESIGN CHOICE). -/
def Obligations.ReadsLeaveConfigurationAlone : Prop :=
  ∀ (p : Params) (e t : Engine p) (owner : Owner p),
    ((∃ c, e.seq = .select c owner) ∨ (∃ c, e.seq = .shiftIn c owner)) →
    step ⟨p, e⟩ = .next ⟨p, t⟩ →
    t.pinData = e.pinData ∧ t.pinClock = e.pinClock ∧ t.gainA = e.gainA ∧ t.gainB = e.gainB ∧
    t.life = e.life ∧ t.dirData = e.dirData ∧ t.dirClock = e.dirClock ∧
    ((∀ n, owner ≠ .calibrate .a n) → t.offsetA = e.offsetA) ∧
    ((∀ n, owner ≠ .calibrate .b n) → t.offsetB = e.offsetB) ∧
    (¬ LastCall owner e → t.offsetA = e.offsetA ∧ t.offsetB = e.offsetB ∧ t.result = e.result)

/-- R30 to R33, R40: the steps in which a datapath register can change. Outside SHIFTIN no step writes `ACC`
or `RESULT`; only CALIBRATE touches `SUM`, only AVGREAD `FSUM`. READCAL and AVGREAD overwrite the `RESULT`
that SHIFTIN left (R33): that their writes fall in the step of SHIFTIN's last call is the model's deduction
from R40 (log 1, DEDUCED), and that `SUM` and `FSUM` are cleared in a step of its own that issues the
command is the model's choice (log 2). -/
def Obligations.DatapathRegistersChangeOnlyInTheirSteps : Prop :=
  ∀ (p : Params) (e t : Engine p), step ⟨p, e⟩ = .next ⟨p, t⟩ →
    ((∀ c o, e.seq ≠ .shiftIn c o) → t.acc = e.acc ∧ t.result = e.result) ∧
    ((∀ c ch n, e.seq ≠ .shiftIn c (.calibrate ch n)) → t.sum ≠ e.sum →
      e.seq = .idle ∧ ∃ w rest ch n, e.program = w :: rest ∧ decode p w = .ok (.calibrate ch n)) ∧
    ((∀ c ch n, e.seq ≠ .shiftIn c (.avgRead ch n)) → t.fsum ≠ e.fsum →
      e.seq = .idle ∧ ∃ w rest ch n, e.program = w :: rest ∧ decode p w = .ok (.avgRead ch n))

/-! ## The invariant -/

/-- The power-on state meets the invariant, whatever the parameters. -/
def Obligations.PowerOnMeetsTheInvariant : Prop :=
  State.reset.Inv ∧ ∀ p : Params, (Engine.powerOn p).Inv

/-- R28, R30 to R32, R42: from every state that meets the invariant, whatever HOST issues and ENV answers,
a step gives a state that meets it, for every choice of the parameters. For others than the defaults what
it says of `BIT`, `ACC` and the ranges rests on the model's choices (log 15, log 22). What holds at each call
of an operation rests on the updates belonging to the call before them (log 1, DEDUCED). -/
def Obligations.StepKeepsTheInvariant : Prop :=
  ∀ s t : State, s.Inv → step s = .next t → t.Inv

/-- R155, R156, R191: in the states of the invariant READCAL's product always fits its register, in AVGREAD
too, so the refusal ResultOverflow is never reached. It says nothing of `SUM` and `FSUM`. For parameters
other than the defaults the bounds of the parameters and the range of raw samples are the model's (log 15,
log 22, DESIGN CHOICE). -/
def Obligations.NoResultOverflowUnderTheInvariant : Prop :=
  ∀ s : State, s.Inv → step s ≠ .refused .resultOverflow

/-- R191, R193: the one fault arises only where a CALIBRATE or an AVGREAD with a count of 0 is issued. That
it falls in the step that issues the command, before any pin event of it, is the model's deduction
(log 13, DEDUCED): R193 puts it within the operation, at the division. -/
def Obligations.OnlyCountZeroFaults : Prop :=
  ∀ (p : Params) (e : Engine p) (f : Fault), e.Inv → step ⟨p, e⟩ = .fault f →
    f = .divideByZero ∧ e.seq = .idle ∧ ∃ w rest ch, e.program = w :: rest ∧
      (decode p w = .ok (.calibrate ch 0) ∨ decode p w = .ok (.avgRead ch 0))
end

