-- ==== Sys2Proof/Laws/Decode.lean ====
section
/-! SUPPORT. Fields of words as numbers, the operand codes, and what the decoder's zero check says. -/

namespace Sys2Proof

/-! ## Well-formed commands -/

@[simp] theorem Instr.wellFormed_construct {p : Params} {dpin cpin : Nat} :
    (Instr.construct dpin cpin).WellFormed p ↔ dpin < 2 ^ p.pinField ∧ cpin < 2 ^ p.pinField := by
  simp [Instr.WellFormed, Instr.fields]

@[simp] theorem Instr.wellFormed_calibrate {p : Params} {ch : Channel} {n : Nat} :
    (Instr.calibrate ch n).WellFormed p ↔ n < 2 ^ p.countField := by
  simp [Instr.WellFormed, Instr.fields]

@[simp] theorem Instr.wellFormed_avgRead {p : Params} {ch : Channel} {n : Nat} :
    (Instr.avgRead ch n).WellFormed p ↔ n < 2 ^ p.countField := by
  simp [Instr.WellFormed, Instr.fields]

theorem Params.pinField_le (p : Params) : p.pinField ≤ 14 := Nat.min_le_right ..

theorem Params.countField_le (p : Params) : p.countField ≤ 27 := Nat.min_le_right ..

/-- A count that fits its field fits the register `CNT` (R20, R102). -/
theorem count_lt {p : Params} {n : Nat} (h : n < 2 ^ p.countField) : n < 2 ^ p.cntW :=
  h.trans_le (Nat.pow_le_pow_right (by decide) (Nat.min_le_left ..))

/-- A pin identifier that fits its field fits its register (R22, R102). -/
theorem pin_lt {p : Params} {n : Nat} (h : n < 2 ^ p.pinField) : n < 2 ^ p.pinW :=
  h.trans_le (Nat.pow_le_pow_right (by decide) (Nat.min_le_left ..))

/-! ## Words and fields as numbers -/

theorem wordOf_toNat {op below : Nat} (ho : op < 16) (hb : below < 2 ^ 28) :
    (wordOf op below).toNat = op * 2 ^ 28 + below := by
  rw [wordOf, BitVec.toNat_ofNat]
  omega

theorem wordCh_toNat {op below : Nat} {ch : Channel} (ho : op < 16) (hb : below < 2 ^ 27) :
    (wordCh op ch below).toNat = op * 2 ^ 28 + (ch.code.toNat * 2 ^ 27 + below) := by
  have := ch.code.isLt
  exact wordOf_toNat ho (by omega)

/-- What stands above `lo` bits, in a number put together from two. -/
theorem above_low {a b lo : Nat} (h : b < 2 ^ lo) : (a * 2 ^ lo + b) / 2 ^ lo = a := by
  rw [Nat.mul_comm, Nat.mul_add_div (Nat.two_pow_pos lo), Nat.div_eq_of_lt h, Nat.add_zero]

/-- A field of a word, as a number. -/
theorem field_toNat {n : Nat} (w : BitVec n) (lo len : Nat) :
    (w.extractLsb' lo len).toNat = w.toNat / 2 ^ lo % 2 ^ len := by
  rw [BitVec.extractLsb'_toNat, Nat.shiftRight_eq_div_pow]

theorem field_eq_iff {n : Nat} (w : BitVec n) (lo len : Nat) (v : BitVec len) :
    w.extractLsb' lo len = v ↔ w.toNat / 2 ^ lo % 2 ^ len = v.toNat := by
  rw [← BitVec.toNat_inj, field_toNat]

/-- The zero check of the decoder (R109). -/
theorem ifClear_ok_iff {w : Word} {lo width : Nat} {i : Except Illegal Instr} {j : Instr} :
    ifClear w lo width i = .ok j ↔ w.extractLsb' lo width = 0 ∧ i = .ok j := by
  unfold ifClear
  split <;> simp_all

@[simp] theorem Channel.ofCode_code (c : Channel) : Channel.ofCode c.code = c := by
  cases c <;> rfl

@[simp] theorem Channel.code_ofCode (c : BitVec 1) : (Channel.ofCode c).code = c := by
  revert c
  decide

theorem GainSetting.ofCode_eq_some_iff (g : GainSetting) (c : BitVec 2) :
    GainSetting.ofCode c = some g ↔ c = g.code := by
  revert c
  cases g <;> decide

theorem GainSetting.ofCode_eq_none_iff (c : BitVec 2) : GainSetting.ofCode c = none ↔ c = 3 := by
  revert c
  decide

end Sys2Proof
end

