-- ==== Sys2Proof/Laws/State.lean ====
section
/-! SUPPORT. What each operation on the state leaves in each field. -/

namespace Sys2Proof.Machine

variable {p : Params} (e : Engine p)

/-! ### `emit` -/

@[simp] theorem Engine.emit_life (ev : PinEvent p) : (e.emit ev).life = e.life := rfl
@[simp] theorem Engine.emit_pinData (ev : PinEvent p) : (e.emit ev).pinData = e.pinData := rfl
@[simp] theorem Engine.emit_pinClock (ev : PinEvent p) : (e.emit ev).pinClock = e.pinClock := rfl
@[simp] theorem Engine.emit_gainA (ev : PinEvent p) : (e.emit ev).gainA = e.gainA := rfl
@[simp] theorem Engine.emit_gainB (ev : PinEvent p) : (e.emit ev).gainB = e.gainB := rfl
@[simp] theorem Engine.emit_offsetA (ev : PinEvent p) : (e.emit ev).offsetA = e.offsetA := rfl
@[simp] theorem Engine.emit_offsetB (ev : PinEvent p) : (e.emit ev).offsetB = e.offsetB := rfl
@[simp] theorem Engine.emit_acc (ev : PinEvent p) : (e.emit ev).acc = e.acc := rfl
@[simp] theorem Engine.emit_sum (ev : PinEvent p) : (e.emit ev).sum = e.sum := rfl
@[simp] theorem Engine.emit_fsum (ev : PinEvent p) : (e.emit ev).fsum = e.fsum := rfl
@[simp] theorem Engine.emit_result (ev : PinEvent p) : (e.emit ev).result = e.result := rfl
@[simp] theorem Engine.emit_seq (ev : PinEvent p) : (e.emit ev).seq = e.seq := rfl
@[simp] theorem Engine.emit_bit (ev : PinEvent p) : (e.emit ev).bit = e.bit := rfl
@[simp] theorem Engine.emit_pcnt (ev : PinEvent p) : (e.emit ev).pcnt = e.pcnt := rfl
@[simp] theorem Engine.emit_cnt (ev : PinEvent p) : (e.emit ev).cnt = e.cnt := rfl
@[simp] theorem Engine.emit_clkOut (ev : PinEvent p) : (e.emit ev).clkOut = e.clkOut := rfl
@[simp] theorem Engine.emit_dirData (ev : PinEvent p) : (e.emit ev).dirData = e.dirData := rfl
@[simp] theorem Engine.emit_dirClock (ev : PinEvent p) : (e.emit ev).dirClock = e.dirClock := rfl
@[simp] theorem Engine.emit_program (ev : PinEvent p) : (e.emit ev).program = e.program := rfl
@[simp] theorem Engine.emit_script (ev : PinEvent p) : (e.emit ev).script = e.script := rfl
@[simp] theorem Engine.emit_trace (ev : PinEvent p) : (e.emit ev).trace = e.trace ++ [ev] := rfl
@[simp] theorem Engine.emit_draws (ev : PinEvent p) : (e.emit ev).draws = e.draws := rfl

/-! ### `pinWrite` -/

@[simp] theorem Engine.pinWrite_life (l : Level) : (e.pinWrite l).life = e.life := rfl
@[simp] theorem Engine.pinWrite_pinData (l : Level) : (e.pinWrite l).pinData = e.pinData := rfl
@[simp] theorem Engine.pinWrite_pinClock (l : Level) : (e.pinWrite l).pinClock = e.pinClock := rfl
@[simp] theorem Engine.pinWrite_gainA (l : Level) : (e.pinWrite l).gainA = e.gainA := rfl
@[simp] theorem Engine.pinWrite_gainB (l : Level) : (e.pinWrite l).gainB = e.gainB := rfl
@[simp] theorem Engine.pinWrite_offsetA (l : Level) : (e.pinWrite l).offsetA = e.offsetA := rfl
@[simp] theorem Engine.pinWrite_offsetB (l : Level) : (e.pinWrite l).offsetB = e.offsetB := rfl
@[simp] theorem Engine.pinWrite_acc (l : Level) : (e.pinWrite l).acc = e.acc := rfl
@[simp] theorem Engine.pinWrite_sum (l : Level) : (e.pinWrite l).sum = e.sum := rfl
@[simp] theorem Engine.pinWrite_fsum (l : Level) : (e.pinWrite l).fsum = e.fsum := rfl
@[simp] theorem Engine.pinWrite_result (l : Level) : (e.pinWrite l).result = e.result := rfl
@[simp] theorem Engine.pinWrite_seq (l : Level) : (e.pinWrite l).seq = e.seq := rfl
@[simp] theorem Engine.pinWrite_bit (l : Level) : (e.pinWrite l).bit = e.bit := rfl
@[simp] theorem Engine.pinWrite_pcnt (l : Level) : (e.pinWrite l).pcnt = e.pcnt := rfl
@[simp] theorem Engine.pinWrite_cnt (l : Level) : (e.pinWrite l).cnt = e.cnt := rfl
@[simp] theorem Engine.pinWrite_clkOut (l : Level) : (e.pinWrite l).clkOut = l := rfl
@[simp] theorem Engine.pinWrite_dirData (l : Level) : (e.pinWrite l).dirData = e.dirData := rfl
@[simp] theorem Engine.pinWrite_dirClock (l : Level) : (e.pinWrite l).dirClock = e.dirClock := rfl
@[simp] theorem Engine.pinWrite_program (l : Level) : (e.pinWrite l).program = e.program := rfl
@[simp] theorem Engine.pinWrite_script (l : Level) : (e.pinWrite l).script = e.script := rfl
@[simp] theorem Engine.pinWrite_trace (l : Level) :
    (e.pinWrite l).trace = e.trace ++ [.write e.pinClock l] := rfl
@[simp] theorem Engine.pinWrite_draws (l : Level) : (e.pinWrite l).draws = e.draws := rfl

/-! ### `pinDir_data` -/

@[simp] theorem Engine.pinDir_data_life (o : Dir) : (e.pinDir .data o).life = e.life := rfl
@[simp] theorem Engine.pinDir_data_pinData (o : Dir) : (e.pinDir .data o).pinData = e.pinData := rfl
@[simp] theorem Engine.pinDir_data_pinClock (o : Dir) :
    (e.pinDir .data o).pinClock = e.pinClock := rfl
@[simp] theorem Engine.pinDir_data_gainA (o : Dir) : (e.pinDir .data o).gainA = e.gainA := rfl
@[simp] theorem Engine.pinDir_data_gainB (o : Dir) : (e.pinDir .data o).gainB = e.gainB := rfl
@[simp] theorem Engine.pinDir_data_offsetA (o : Dir) : (e.pinDir .data o).offsetA = e.offsetA := rfl
@[simp] theorem Engine.pinDir_data_offsetB (o : Dir) : (e.pinDir .data o).offsetB = e.offsetB := rfl
@[simp] theorem Engine.pinDir_data_acc (o : Dir) : (e.pinDir .data o).acc = e.acc := rfl
@[simp] theorem Engine.pinDir_data_sum (o : Dir) : (e.pinDir .data o).sum = e.sum := rfl
@[simp] theorem Engine.pinDir_data_fsum (o : Dir) : (e.pinDir .data o).fsum = e.fsum := rfl
@[simp] theorem Engine.pinDir_data_result (o : Dir) : (e.pinDir .data o).result = e.result := rfl
@[simp] theorem Engine.pinDir_data_seq (o : Dir) : (e.pinDir .data o).seq = e.seq := rfl
@[simp] theorem Engine.pinDir_data_bit (o : Dir) : (e.pinDir .data o).bit = e.bit := rfl
@[simp] theorem Engine.pinDir_data_pcnt (o : Dir) : (e.pinDir .data o).pcnt = e.pcnt := rfl
@[simp] theorem Engine.pinDir_data_cnt (o : Dir) : (e.pinDir .data o).cnt = e.cnt := rfl
@[simp] theorem Engine.pinDir_data_clkOut (o : Dir) : (e.pinDir .data o).clkOut = e.clkOut := rfl
@[simp] theorem Engine.pinDir_data_dirData (o : Dir) : (e.pinDir .data o).dirData = o := rfl
@[simp] theorem Engine.pinDir_data_dirClock (o : Dir) :
    (e.pinDir .data o).dirClock = e.dirClock := rfl
@[simp] theorem Engine.pinDir_data_program (o : Dir) : (e.pinDir .data o).program = e.program := rfl
@[simp] theorem Engine.pinDir_data_script (o : Dir) : (e.pinDir .data o).script = e.script := rfl
@[simp] theorem Engine.pinDir_data_trace (o : Dir) :
    (e.pinDir .data o).trace = e.trace ++ [.dir e.pinData o] := rfl
@[simp] theorem Engine.pinDir_data_draws (o : Dir) : (e.pinDir .data o).draws = e.draws := rfl

/-! ### `pinDir_clock` -/

@[simp] theorem Engine.pinDir_clock_life (o : Dir) : (e.pinDir .clock o).life = e.life := rfl
@[simp] theorem Engine.pinDir_clock_pinData (o : Dir) :
    (e.pinDir .clock o).pinData = e.pinData := rfl
@[simp] theorem Engine.pinDir_clock_pinClock (o : Dir) :
    (e.pinDir .clock o).pinClock = e.pinClock := rfl
@[simp] theorem Engine.pinDir_clock_gainA (o : Dir) : (e.pinDir .clock o).gainA = e.gainA := rfl
@[simp] theorem Engine.pinDir_clock_gainB (o : Dir) : (e.pinDir .clock o).gainB = e.gainB := rfl
@[simp] theorem Engine.pinDir_clock_offsetA (o : Dir) :
    (e.pinDir .clock o).offsetA = e.offsetA := rfl
@[simp] theorem Engine.pinDir_clock_offsetB (o : Dir) :
    (e.pinDir .clock o).offsetB = e.offsetB := rfl
@[simp] theorem Engine.pinDir_clock_acc (o : Dir) : (e.pinDir .clock o).acc = e.acc := rfl
@[simp] theorem Engine.pinDir_clock_sum (o : Dir) : (e.pinDir .clock o).sum = e.sum := rfl
@[simp] theorem Engine.pinDir_clock_fsum (o : Dir) : (e.pinDir .clock o).fsum = e.fsum := rfl
@[simp] theorem Engine.pinDir_clock_result (o : Dir) : (e.pinDir .clock o).result = e.result := rfl
@[simp] theorem Engine.pinDir_clock_seq (o : Dir) : (e.pinDir .clock o).seq = e.seq := rfl
@[simp] theorem Engine.pinDir_clock_bit (o : Dir) : (e.pinDir .clock o).bit = e.bit := rfl
@[simp] theorem Engine.pinDir_clock_pcnt (o : Dir) : (e.pinDir .clock o).pcnt = e.pcnt := rfl
@[simp] theorem Engine.pinDir_clock_cnt (o : Dir) : (e.pinDir .clock o).cnt = e.cnt := rfl
@[simp] theorem Engine.pinDir_clock_clkOut (o : Dir) : (e.pinDir .clock o).clkOut = e.clkOut := rfl
@[simp] theorem Engine.pinDir_clock_dirData (o : Dir) :
    (e.pinDir .clock o).dirData = e.dirData := rfl
@[simp] theorem Engine.pinDir_clock_dirClock (o : Dir) : (e.pinDir .clock o).dirClock = o := rfl
@[simp] theorem Engine.pinDir_clock_program (o : Dir) :
    (e.pinDir .clock o).program = e.program := rfl
@[simp] theorem Engine.pinDir_clock_script (o : Dir) : (e.pinDir .clock o).script = e.script := rfl
@[simp] theorem Engine.pinDir_clock_trace (o : Dir) :
    (e.pinDir .clock o).trace = e.trace ++ [.dir e.pinClock o] := rfl
@[simp] theorem Engine.pinDir_clock_draws (o : Dir) : (e.pinDir .clock o).draws = e.draws := rfl

/-! ### `delayUs` -/

@[simp] theorem Engine.delayUs_life (n : Nat) : (e.delayUs n).life = e.life := rfl
@[simp] theorem Engine.delayUs_pinData (n : Nat) : (e.delayUs n).pinData = e.pinData := rfl
@[simp] theorem Engine.delayUs_pinClock (n : Nat) : (e.delayUs n).pinClock = e.pinClock := rfl
@[simp] theorem Engine.delayUs_gainA (n : Nat) : (e.delayUs n).gainA = e.gainA := rfl
@[simp] theorem Engine.delayUs_gainB (n : Nat) : (e.delayUs n).gainB = e.gainB := rfl
@[simp] theorem Engine.delayUs_offsetA (n : Nat) : (e.delayUs n).offsetA = e.offsetA := rfl
@[simp] theorem Engine.delayUs_offsetB (n : Nat) : (e.delayUs n).offsetB = e.offsetB := rfl
@[simp] theorem Engine.delayUs_acc (n : Nat) : (e.delayUs n).acc = e.acc := rfl
@[simp] theorem Engine.delayUs_sum (n : Nat) : (e.delayUs n).sum = e.sum := rfl
@[simp] theorem Engine.delayUs_fsum (n : Nat) : (e.delayUs n).fsum = e.fsum := rfl
@[simp] theorem Engine.delayUs_result (n : Nat) : (e.delayUs n).result = e.result := rfl
@[simp] theorem Engine.delayUs_seq (n : Nat) : (e.delayUs n).seq = e.seq := rfl
@[simp] theorem Engine.delayUs_bit (n : Nat) : (e.delayUs n).bit = e.bit := rfl
@[simp] theorem Engine.delayUs_pcnt (n : Nat) : (e.delayUs n).pcnt = e.pcnt := rfl
@[simp] theorem Engine.delayUs_cnt (n : Nat) : (e.delayUs n).cnt = e.cnt := rfl
@[simp] theorem Engine.delayUs_clkOut (n : Nat) : (e.delayUs n).clkOut = e.clkOut := rfl
@[simp] theorem Engine.delayUs_dirData (n : Nat) : (e.delayUs n).dirData = e.dirData := rfl
@[simp] theorem Engine.delayUs_dirClock (n : Nat) : (e.delayUs n).dirClock = e.dirClock := rfl
@[simp] theorem Engine.delayUs_program (n : Nat) : (e.delayUs n).program = e.program := rfl
@[simp] theorem Engine.delayUs_script (n : Nat) : (e.delayUs n).script = e.script := rfl
@[simp] theorem Engine.delayUs_trace (n : Nat) : (e.delayUs n).trace = e.trace ++ [.delay n] := rfl
@[simp] theorem Engine.delayUs_draws (n : Nat) : (e.delayUs n).draws = e.draws := rfl

/-! ### `finish` -/

@[simp] theorem Engine.finish_life : e.finish.life = e.life := rfl
@[simp] theorem Engine.finish_pinData : e.finish.pinData = e.pinData := rfl
@[simp] theorem Engine.finish_pinClock : e.finish.pinClock = e.pinClock := rfl
@[simp] theorem Engine.finish_gainA : e.finish.gainA = e.gainA := rfl
@[simp] theorem Engine.finish_gainB : e.finish.gainB = e.gainB := rfl
@[simp] theorem Engine.finish_offsetA : e.finish.offsetA = e.offsetA := rfl
@[simp] theorem Engine.finish_offsetB : e.finish.offsetB = e.offsetB := rfl
@[simp] theorem Engine.finish_acc : e.finish.acc = e.acc := rfl
@[simp] theorem Engine.finish_sum : e.finish.sum = e.sum := rfl
@[simp] theorem Engine.finish_fsum : e.finish.fsum = e.fsum := rfl
@[simp] theorem Engine.finish_result : e.finish.result = e.result := rfl
@[simp] theorem Engine.finish_seq : e.finish.seq = .idle := rfl
@[simp] theorem Engine.finish_bit : e.finish.bit = e.bit := rfl
@[simp] theorem Engine.finish_pcnt : e.finish.pcnt = e.pcnt := rfl
@[simp] theorem Engine.finish_cnt : e.finish.cnt = e.cnt := rfl
@[simp] theorem Engine.finish_clkOut : e.finish.clkOut = e.clkOut := rfl
@[simp] theorem Engine.finish_dirData : e.finish.dirData = e.dirData := rfl
@[simp] theorem Engine.finish_dirClock : e.finish.dirClock = e.dirClock := rfl
@[simp] theorem Engine.finish_program : e.finish.program = e.program := rfl
@[simp] theorem Engine.finish_script : e.finish.script = e.script := rfl
@[simp] theorem Engine.finish_trace : e.finish.trace = e.trace := rfl
@[simp] theorem Engine.finish_draws : e.finish.draws = e.draws := rfl

/-! ### `releasePulses` -/

@[simp] theorem Engine.releasePulses_life : e.releasePulses.life = e.life := rfl
@[simp] theorem Engine.releasePulses_pinData : e.releasePulses.pinData = e.pinData := rfl
@[simp] theorem Engine.releasePulses_pinClock : e.releasePulses.pinClock = e.pinClock := rfl
@[simp] theorem Engine.releasePulses_gainA : e.releasePulses.gainA = e.gainA := rfl
@[simp] theorem Engine.releasePulses_gainB : e.releasePulses.gainB = e.gainB := rfl
@[simp] theorem Engine.releasePulses_offsetA : e.releasePulses.offsetA = e.offsetA := rfl
@[simp] theorem Engine.releasePulses_offsetB : e.releasePulses.offsetB = e.offsetB := rfl
@[simp] theorem Engine.releasePulses_acc : e.releasePulses.acc = e.acc := rfl
@[simp] theorem Engine.releasePulses_sum : e.releasePulses.sum = e.sum := rfl
@[simp] theorem Engine.releasePulses_fsum : e.releasePulses.fsum = e.fsum := rfl
@[simp] theorem Engine.releasePulses_result : e.releasePulses.result = e.result := rfl
@[simp] theorem Engine.releasePulses_seq : e.releasePulses.seq = e.seq := rfl
@[simp] theorem Engine.releasePulses_bit : e.releasePulses.bit = e.bit := rfl
@[simp] theorem Engine.releasePulses_pcnt :
    e.releasePulses.pcnt = (Config.unspecified p e.draws).pcnt := rfl
@[simp] theorem Engine.releasePulses_cnt : e.releasePulses.cnt = e.cnt := rfl
@[simp] theorem Engine.releasePulses_clkOut : e.releasePulses.clkOut = e.clkOut := rfl
@[simp] theorem Engine.releasePulses_dirData : e.releasePulses.dirData = e.dirData := rfl
@[simp] theorem Engine.releasePulses_dirClock : e.releasePulses.dirClock = e.dirClock := rfl
@[simp] theorem Engine.releasePulses_program : e.releasePulses.program = e.program := rfl
@[simp] theorem Engine.releasePulses_script : e.releasePulses.script = e.script := rfl
@[simp] theorem Engine.releasePulses_trace : e.releasePulses.trace = e.trace := rfl
@[simp] theorem Engine.releasePulses_draws : e.releasePulses.draws = e.draws + 1 := rfl

/-! ### `releaseShift` -/

@[simp] theorem Engine.releaseShift_life : e.releaseShift.life = e.life := rfl
@[simp] theorem Engine.releaseShift_pinData : e.releaseShift.pinData = e.pinData := rfl
@[simp] theorem Engine.releaseShift_pinClock : e.releaseShift.pinClock = e.pinClock := rfl
@[simp] theorem Engine.releaseShift_gainA : e.releaseShift.gainA = e.gainA := rfl
@[simp] theorem Engine.releaseShift_gainB : e.releaseShift.gainB = e.gainB := rfl
@[simp] theorem Engine.releaseShift_offsetA : e.releaseShift.offsetA = e.offsetA := rfl
@[simp] theorem Engine.releaseShift_offsetB : e.releaseShift.offsetB = e.offsetB := rfl
@[simp] theorem Engine.releaseShift_acc :
    e.releaseShift.acc = (Config.unspecified p e.draws).acc := rfl
@[simp] theorem Engine.releaseShift_sum : e.releaseShift.sum = e.sum := rfl
@[simp] theorem Engine.releaseShift_fsum : e.releaseShift.fsum = e.fsum := rfl
@[simp] theorem Engine.releaseShift_result : e.releaseShift.result = e.result := rfl
@[simp] theorem Engine.releaseShift_seq : e.releaseShift.seq = e.seq := rfl
@[simp] theorem Engine.releaseShift_bit :
    e.releaseShift.bit = (Config.unspecified p e.draws).bit := rfl
@[simp] theorem Engine.releaseShift_pcnt : e.releaseShift.pcnt = e.pcnt := rfl
@[simp] theorem Engine.releaseShift_cnt : e.releaseShift.cnt = e.cnt := rfl
@[simp] theorem Engine.releaseShift_clkOut : e.releaseShift.clkOut = e.clkOut := rfl
@[simp] theorem Engine.releaseShift_dirData : e.releaseShift.dirData = e.dirData := rfl
@[simp] theorem Engine.releaseShift_dirClock : e.releaseShift.dirClock = e.dirClock := rfl
@[simp] theorem Engine.releaseShift_program : e.releaseShift.program = e.program := rfl
@[simp] theorem Engine.releaseShift_script : e.releaseShift.script = e.script := rfl
@[simp] theorem Engine.releaseShift_trace : e.releaseShift.trace = e.trace := rfl
@[simp] theorem Engine.releaseShift_draws : e.releaseShift.draws = e.draws + 1 := rfl

/-! ### `releaseSum` -/

@[simp] theorem Engine.releaseSum_life : e.releaseSum.life = e.life := rfl
@[simp] theorem Engine.releaseSum_pinData : e.releaseSum.pinData = e.pinData := rfl
@[simp] theorem Engine.releaseSum_pinClock : e.releaseSum.pinClock = e.pinClock := rfl
@[simp] theorem Engine.releaseSum_gainA : e.releaseSum.gainA = e.gainA := rfl
@[simp] theorem Engine.releaseSum_gainB : e.releaseSum.gainB = e.gainB := rfl
@[simp] theorem Engine.releaseSum_offsetA : e.releaseSum.offsetA = e.offsetA := rfl
@[simp] theorem Engine.releaseSum_offsetB : e.releaseSum.offsetB = e.offsetB := rfl
@[simp] theorem Engine.releaseSum_acc : e.releaseSum.acc = e.acc := rfl
@[simp] theorem Engine.releaseSum_sum : e.releaseSum.sum = (Config.unspecified p e.draws).sum := rfl
@[simp] theorem Engine.releaseSum_fsum : e.releaseSum.fsum = e.fsum := rfl
@[simp] theorem Engine.releaseSum_result : e.releaseSum.result = e.result := rfl
@[simp] theorem Engine.releaseSum_seq : e.releaseSum.seq = e.seq := rfl
@[simp] theorem Engine.releaseSum_bit : e.releaseSum.bit = e.bit := rfl
@[simp] theorem Engine.releaseSum_pcnt : e.releaseSum.pcnt = e.pcnt := rfl
@[simp] theorem Engine.releaseSum_cnt : e.releaseSum.cnt = (Config.unspecified p e.draws).cnt := rfl
@[simp] theorem Engine.releaseSum_clkOut : e.releaseSum.clkOut = e.clkOut := rfl
@[simp] theorem Engine.releaseSum_dirData : e.releaseSum.dirData = e.dirData := rfl
@[simp] theorem Engine.releaseSum_dirClock : e.releaseSum.dirClock = e.dirClock := rfl
@[simp] theorem Engine.releaseSum_program : e.releaseSum.program = e.program := rfl
@[simp] theorem Engine.releaseSum_script : e.releaseSum.script = e.script := rfl
@[simp] theorem Engine.releaseSum_trace : e.releaseSum.trace = e.trace := rfl
@[simp] theorem Engine.releaseSum_draws : e.releaseSum.draws = e.draws + 1 := rfl

/-! ### `releaseFsum` -/

@[simp] theorem Engine.releaseFsum_life : e.releaseFsum.life = e.life := rfl
@[simp] theorem Engine.releaseFsum_pinData : e.releaseFsum.pinData = e.pinData := rfl
@[simp] theorem Engine.releaseFsum_pinClock : e.releaseFsum.pinClock = e.pinClock := rfl
@[simp] theorem Engine.releaseFsum_gainA : e.releaseFsum.gainA = e.gainA := rfl
@[simp] theorem Engine.releaseFsum_gainB : e.releaseFsum.gainB = e.gainB := rfl
@[simp] theorem Engine.releaseFsum_offsetA : e.releaseFsum.offsetA = e.offsetA := rfl
@[simp] theorem Engine.releaseFsum_offsetB : e.releaseFsum.offsetB = e.offsetB := rfl
@[simp] theorem Engine.releaseFsum_acc : e.releaseFsum.acc = e.acc := rfl
@[simp] theorem Engine.releaseFsum_sum : e.releaseFsum.sum = e.sum := rfl
@[simp] theorem Engine.releaseFsum_fsum :
    e.releaseFsum.fsum = (Config.unspecified p e.draws).fsum := rfl
@[simp] theorem Engine.releaseFsum_result : e.releaseFsum.result = e.result := rfl
@[simp] theorem Engine.releaseFsum_seq : e.releaseFsum.seq = e.seq := rfl
@[simp] theorem Engine.releaseFsum_bit : e.releaseFsum.bit = e.bit := rfl
@[simp] theorem Engine.releaseFsum_pcnt : e.releaseFsum.pcnt = e.pcnt := rfl
@[simp] theorem Engine.releaseFsum_cnt :
    e.releaseFsum.cnt = (Config.unspecified p e.draws).cnt := rfl
@[simp] theorem Engine.releaseFsum_clkOut : e.releaseFsum.clkOut = e.clkOut := rfl
@[simp] theorem Engine.releaseFsum_dirData : e.releaseFsum.dirData = e.dirData := rfl
@[simp] theorem Engine.releaseFsum_dirClock : e.releaseFsum.dirClock = e.dirClock := rfl
@[simp] theorem Engine.releaseFsum_program : e.releaseFsum.program = e.program := rfl
@[simp] theorem Engine.releaseFsum_script : e.releaseFsum.script = e.script := rfl
@[simp] theorem Engine.releaseFsum_trace : e.releaseFsum.trace = e.trace := rfl
@[simp] theorem Engine.releaseFsum_draws : e.releaseFsum.draws = e.draws + 1 := rfl

/-! ### `destroyConfig` -/

@[simp] theorem Engine.destroyConfig_life : e.destroyConfig.life = e.life := rfl
@[simp] theorem Engine.destroyConfig_pinData :
    e.destroyConfig.pinData = (Config.unspecified p e.draws).pinData := rfl
@[simp] theorem Engine.destroyConfig_pinClock :
    e.destroyConfig.pinClock = (Config.unspecified p e.draws).pinClock := rfl
@[simp] theorem Engine.destroyConfig_gainA :
    e.destroyConfig.gainA = (Config.unspecified p e.draws).gainA := rfl
@[simp] theorem Engine.destroyConfig_gainB :
    e.destroyConfig.gainB = (Config.unspecified p e.draws).gainB := rfl
@[simp] theorem Engine.destroyConfig_offsetA :
    e.destroyConfig.offsetA = (Config.unspecified p e.draws).offsetA := rfl
@[simp] theorem Engine.destroyConfig_offsetB :
    e.destroyConfig.offsetB = (Config.unspecified p e.draws).offsetB := rfl
@[simp] theorem Engine.destroyConfig_acc : e.destroyConfig.acc = e.acc := rfl
@[simp] theorem Engine.destroyConfig_sum : e.destroyConfig.sum = e.sum := rfl
@[simp] theorem Engine.destroyConfig_fsum : e.destroyConfig.fsum = e.fsum := rfl
@[simp] theorem Engine.destroyConfig_result : e.destroyConfig.result = e.result := rfl
@[simp] theorem Engine.destroyConfig_seq : e.destroyConfig.seq = e.seq := rfl
@[simp] theorem Engine.destroyConfig_bit : e.destroyConfig.bit = e.bit := rfl
@[simp] theorem Engine.destroyConfig_pcnt : e.destroyConfig.pcnt = e.pcnt := rfl
@[simp] theorem Engine.destroyConfig_cnt : e.destroyConfig.cnt = e.cnt := rfl
@[simp] theorem Engine.destroyConfig_clkOut : e.destroyConfig.clkOut = e.clkOut := rfl
@[simp] theorem Engine.destroyConfig_dirData : e.destroyConfig.dirData = e.dirData := rfl
@[simp] theorem Engine.destroyConfig_dirClock : e.destroyConfig.dirClock = e.dirClock := rfl
@[simp] theorem Engine.destroyConfig_program : e.destroyConfig.program = e.program := rfl
@[simp] theorem Engine.destroyConfig_script : e.destroyConfig.script = e.script := rfl
@[simp] theorem Engine.destroyConfig_trace : e.destroyConfig.trace = e.trace := rfl
@[simp] theorem Engine.destroyConfig_draws : e.destroyConfig.draws = e.draws + 1 := rfl

/-! ### `takeSample` -/

@[simp] theorem Engine.takeSample_life : e.takeSample.life = e.life := rfl
@[simp] theorem Engine.takeSample_pinData : e.takeSample.pinData = e.pinData := rfl
@[simp] theorem Engine.takeSample_pinClock : e.takeSample.pinClock = e.pinClock := rfl
@[simp] theorem Engine.takeSample_gainA : e.takeSample.gainA = e.gainA := rfl
@[simp] theorem Engine.takeSample_gainB : e.takeSample.gainB = e.gainB := rfl
@[simp] theorem Engine.takeSample_offsetA : e.takeSample.offsetA = e.offsetA := rfl
@[simp] theorem Engine.takeSample_offsetB : e.takeSample.offsetB = e.offsetB := rfl
@[simp] theorem Engine.takeSample_acc : e.takeSample.acc = signExtend e.acc := rfl
@[simp] theorem Engine.takeSample_sum : e.takeSample.sum = e.sum := rfl
@[simp] theorem Engine.takeSample_fsum : e.takeSample.fsum = e.fsum := rfl
@[simp] theorem Engine.takeSample_result : e.takeSample.result = signExtend e.acc := rfl
@[simp] theorem Engine.takeSample_seq : e.takeSample.seq = e.seq := rfl
@[simp] theorem Engine.takeSample_bit : e.takeSample.bit = e.bit := rfl
@[simp] theorem Engine.takeSample_pcnt : e.takeSample.pcnt = e.pcnt := rfl
@[simp] theorem Engine.takeSample_cnt : e.takeSample.cnt = e.cnt := rfl
@[simp] theorem Engine.takeSample_clkOut : e.takeSample.clkOut = e.clkOut := rfl
@[simp] theorem Engine.takeSample_dirData : e.takeSample.dirData = e.dirData := rfl
@[simp] theorem Engine.takeSample_dirClock : e.takeSample.dirClock = e.dirClock := rfl
@[simp] theorem Engine.takeSample_program : e.takeSample.program = e.program := rfl
@[simp] theorem Engine.takeSample_script : e.takeSample.script = e.script := rfl
@[simp] theorem Engine.takeSample_trace : e.takeSample.trace = e.trace := rfl
@[simp] theorem Engine.takeSample_draws : e.takeSample.draws = e.draws := rfl

/-! ### `becomeLive` -/

@[simp] theorem Engine.becomeLive_life : e.becomeLive.life = .live := rfl
@[simp] theorem Engine.becomeLive_pinData : e.becomeLive.pinData = e.pinData := rfl
@[simp] theorem Engine.becomeLive_pinClock : e.becomeLive.pinClock = e.pinClock := rfl
@[simp] theorem Engine.becomeLive_gainA : e.becomeLive.gainA = p.gainAReset := rfl
@[simp] theorem Engine.becomeLive_gainB : e.becomeLive.gainB = .g32 := rfl
@[simp] theorem Engine.becomeLive_offsetA : e.becomeLive.offsetA = 0 := rfl
@[simp] theorem Engine.becomeLive_offsetB : e.becomeLive.offsetB = 0 := rfl
@[simp] theorem Engine.becomeLive_acc : e.becomeLive.acc = e.acc := rfl
@[simp] theorem Engine.becomeLive_sum : e.becomeLive.sum = e.sum := rfl
@[simp] theorem Engine.becomeLive_fsum : e.becomeLive.fsum = e.fsum := rfl
@[simp] theorem Engine.becomeLive_result : e.becomeLive.result = e.result := rfl
@[simp] theorem Engine.becomeLive_seq : e.becomeLive.seq = e.seq := rfl
@[simp] theorem Engine.becomeLive_bit : e.becomeLive.bit = e.bit := rfl
@[simp] theorem Engine.becomeLive_pcnt : e.becomeLive.pcnt = e.pcnt := rfl
@[simp] theorem Engine.becomeLive_cnt : e.becomeLive.cnt = e.cnt := rfl
@[simp] theorem Engine.becomeLive_clkOut : e.becomeLive.clkOut = e.clkOut := rfl
@[simp] theorem Engine.becomeLive_dirData : e.becomeLive.dirData = e.dirData := rfl
@[simp] theorem Engine.becomeLive_dirClock : e.becomeLive.dirClock = e.dirClock := rfl
@[simp] theorem Engine.becomeLive_program : e.becomeLive.program = e.program := rfl
@[simp] theorem Engine.becomeLive_script : e.becomeLive.script = e.script := rfl
@[simp] theorem Engine.becomeLive_trace : e.becomeLive.trace = e.trace := rfl
@[simp] theorem Engine.becomeLive_draws : e.becomeLive.draws = e.draws := rfl

/-! ### `addRaw` -/

@[simp] theorem Engine.addRaw_life : e.addRaw.life = e.life := rfl
@[simp] theorem Engine.addRaw_pinData : e.addRaw.pinData = e.pinData := rfl
@[simp] theorem Engine.addRaw_pinClock : e.addRaw.pinClock = e.pinClock := rfl
@[simp] theorem Engine.addRaw_gainA : e.addRaw.gainA = e.gainA := rfl
@[simp] theorem Engine.addRaw_gainB : e.addRaw.gainB = e.gainB := rfl
@[simp] theorem Engine.addRaw_offsetA : e.addRaw.offsetA = e.offsetA := rfl
@[simp] theorem Engine.addRaw_offsetB : e.addRaw.offsetB = e.offsetB := rfl
@[simp] theorem Engine.addRaw_acc : e.addRaw.acc = e.acc := rfl
@[simp] theorem Engine.addRaw_sum :
    e.addRaw.sum = fitted p.sumW (e.sum.toInt + e.result.toInt) := rfl
@[simp] theorem Engine.addRaw_fsum : e.addRaw.fsum = e.fsum := rfl
@[simp] theorem Engine.addRaw_result : e.addRaw.result = e.result := rfl
@[simp] theorem Engine.addRaw_seq : e.addRaw.seq = e.seq := rfl
@[simp] theorem Engine.addRaw_bit : e.addRaw.bit = e.bit := rfl
@[simp] theorem Engine.addRaw_pcnt : e.addRaw.pcnt = e.pcnt := rfl
@[simp] theorem Engine.addRaw_cnt : e.addRaw.cnt = e.cnt - 1 := rfl
@[simp] theorem Engine.addRaw_clkOut : e.addRaw.clkOut = e.clkOut := rfl
@[simp] theorem Engine.addRaw_dirData : e.addRaw.dirData = e.dirData := rfl
@[simp] theorem Engine.addRaw_dirClock : e.addRaw.dirClock = e.dirClock := rfl
@[simp] theorem Engine.addRaw_program : e.addRaw.program = e.program := rfl
@[simp] theorem Engine.addRaw_script : e.addRaw.script = e.script := rfl
@[simp] theorem Engine.addRaw_trace : e.addRaw.trace = e.trace := rfl
@[simp] theorem Engine.addRaw_draws : e.addRaw.draws = e.draws := rfl

/-! ### `addCal` -/

@[simp] theorem Engine.addCal_life : e.addCal.life = e.life := rfl
@[simp] theorem Engine.addCal_pinData : e.addCal.pinData = e.pinData := rfl
@[simp] theorem Engine.addCal_pinClock : e.addCal.pinClock = e.pinClock := rfl
@[simp] theorem Engine.addCal_gainA : e.addCal.gainA = e.gainA := rfl
@[simp] theorem Engine.addCal_gainB : e.addCal.gainB = e.gainB := rfl
@[simp] theorem Engine.addCal_offsetA : e.addCal.offsetA = e.offsetA := rfl
@[simp] theorem Engine.addCal_offsetB : e.addCal.offsetB = e.offsetB := rfl
@[simp] theorem Engine.addCal_acc : e.addCal.acc = e.acc := rfl
@[simp] theorem Engine.addCal_sum : e.addCal.sum = e.sum := rfl
@[simp] theorem Engine.addCal_fsum :
    e.addCal.fsum = fitted 64 (e.fsum.toInt + e.result.toInt) := rfl
@[simp] theorem Engine.addCal_result : e.addCal.result = e.result := rfl
@[simp] theorem Engine.addCal_seq : e.addCal.seq = e.seq := rfl
@[simp] theorem Engine.addCal_bit : e.addCal.bit = e.bit := rfl
@[simp] theorem Engine.addCal_pcnt : e.addCal.pcnt = e.pcnt := rfl
@[simp] theorem Engine.addCal_cnt : e.addCal.cnt = e.cnt - 1 := rfl
@[simp] theorem Engine.addCal_clkOut : e.addCal.clkOut = e.clkOut := rfl
@[simp] theorem Engine.addCal_dirData : e.addCal.dirData = e.dirData := rfl
@[simp] theorem Engine.addCal_dirClock : e.addCal.dirClock = e.dirClock := rfl
@[simp] theorem Engine.addCal_program : e.addCal.program = e.program := rfl
@[simp] theorem Engine.addCal_script : e.addCal.script = e.script := rfl
@[simp] theorem Engine.addCal_trace : e.addCal.trace = e.trace := rfl
@[simp] theorem Engine.addCal_draws : e.addCal.draws = e.draws := rfl

/-! ### `storeAverage` -/

@[simp] theorem Engine.storeAverage_life (n : p.Count) : (e.storeAverage n).life = e.life := rfl
@[simp] theorem Engine.storeAverage_pinData (n : p.Count) :
    (e.storeAverage n).pinData = e.pinData := rfl
@[simp] theorem Engine.storeAverage_pinClock (n : p.Count) :
    (e.storeAverage n).pinClock = e.pinClock := rfl
@[simp] theorem Engine.storeAverage_gainA (n : p.Count) : (e.storeAverage n).gainA = e.gainA := rfl
@[simp] theorem Engine.storeAverage_gainB (n : p.Count) : (e.storeAverage n).gainB = e.gainB := rfl
@[simp] theorem Engine.storeAverage_offsetA (n : p.Count) :
    (e.storeAverage n).offsetA = e.offsetA := rfl
@[simp] theorem Engine.storeAverage_offsetB (n : p.Count) :
    (e.storeAverage n).offsetB = e.offsetB := rfl
@[simp] theorem Engine.storeAverage_acc (n : p.Count) : (e.storeAverage n).acc = e.acc := rfl
@[simp] theorem Engine.storeAverage_sum (n : p.Count) : (e.storeAverage n).sum = e.sum := rfl
@[simp] theorem Engine.storeAverage_fsum (n : p.Count) : (e.storeAverage n).fsum = e.fsum := rfl
@[simp] theorem Engine.storeAverage_result (n : p.Count) :
    (e.storeAverage n).result =
      fitted p.accW (roundDiv p.avgRound e.fsum.toInt n.toNat) := rfl
@[simp] theorem Engine.storeAverage_seq (n : p.Count) : (e.storeAverage n).seq = e.seq := rfl
@[simp] theorem Engine.storeAverage_bit (n : p.Count) : (e.storeAverage n).bit = e.bit := rfl
@[simp] theorem Engine.storeAverage_pcnt (n : p.Count) : (e.storeAverage n).pcnt = e.pcnt := rfl
@[simp] theorem Engine.storeAverage_cnt (n : p.Count) : (e.storeAverage n).cnt = e.cnt := rfl
@[simp] theorem Engine.storeAverage_clkOut (n : p.Count) :
    (e.storeAverage n).clkOut = e.clkOut := rfl
@[simp] theorem Engine.storeAverage_dirData (n : p.Count) :
    (e.storeAverage n).dirData = e.dirData := rfl
@[simp] theorem Engine.storeAverage_dirClock (n : p.Count) :
    (e.storeAverage n).dirClock = e.dirClock := rfl
@[simp] theorem Engine.storeAverage_program (n : p.Count) :
    (e.storeAverage n).program = e.program := rfl
@[simp] theorem Engine.storeAverage_script (n : p.Count) :
    (e.storeAverage n).script = e.script := rfl
@[simp] theorem Engine.storeAverage_trace (n : p.Count) : (e.storeAverage n).trace = e.trace := rfl
@[simp] theorem Engine.storeAverage_draws (n : p.Count) : (e.storeAverage n).draws = e.draws := rfl

/-! ### `beginSelect` -/

@[simp] theorem Engine.beginSelect_life (ch : Channel) (o : Owner p) :
    (e.beginSelect ch o).life = e.life := rfl
@[simp] theorem Engine.beginSelect_pinData (ch : Channel) (o : Owner p) :
    (e.beginSelect ch o).pinData = e.pinData := rfl
@[simp] theorem Engine.beginSelect_pinClock (ch : Channel) (o : Owner p) :
    (e.beginSelect ch o).pinClock = e.pinClock := rfl
@[simp] theorem Engine.beginSelect_gainA (ch : Channel) (o : Owner p) :
    (e.beginSelect ch o).gainA = e.gainA := rfl
@[simp] theorem Engine.beginSelect_gainB (ch : Channel) (o : Owner p) :
    (e.beginSelect ch o).gainB = e.gainB := rfl
@[simp] theorem Engine.beginSelect_offsetA (ch : Channel) (o : Owner p) :
    (e.beginSelect ch o).offsetA = e.offsetA := rfl
@[simp] theorem Engine.beginSelect_offsetB (ch : Channel) (o : Owner p) :
    (e.beginSelect ch o).offsetB = e.offsetB := rfl
@[simp] theorem Engine.beginSelect_acc (ch : Channel) (o : Owner p) :
    (e.beginSelect ch o).acc = e.acc := rfl
@[simp] theorem Engine.beginSelect_sum (ch : Channel) (o : Owner p) :
    (e.beginSelect ch o).sum = e.sum := rfl
@[simp] theorem Engine.beginSelect_fsum (ch : Channel) (o : Owner p) :
    (e.beginSelect ch o).fsum = e.fsum := rfl
@[simp] theorem Engine.beginSelect_result (ch : Channel) (o : Owner p) :
    (e.beginSelect ch o).result = e.result := rfl
@[simp] theorem Engine.beginSelect_seq (ch : Channel) (o : Owner p) :
    (e.beginSelect ch o).seq = .select .poll o := rfl
@[simp] theorem Engine.beginSelect_bit (ch : Channel) (o : Owner p) :
    (e.beginSelect ch o).bit = e.bit := rfl
@[simp] theorem Engine.beginSelect_pcnt (ch : Channel) (o : Owner p) :
    (e.beginSelect ch o).pcnt = pulses p (e.gainOf ch) := rfl
@[simp] theorem Engine.beginSelect_cnt (ch : Channel) (o : Owner p) :
    (e.beginSelect ch o).cnt = e.cnt := rfl
@[simp] theorem Engine.beginSelect_clkOut (ch : Channel) (o : Owner p) :
    (e.beginSelect ch o).clkOut = e.clkOut := rfl
@[simp] theorem Engine.beginSelect_dirData (ch : Channel) (o : Owner p) :
    (e.beginSelect ch o).dirData = e.dirData := rfl
@[simp] theorem Engine.beginSelect_dirClock (ch : Channel) (o : Owner p) :
    (e.beginSelect ch o).dirClock = e.dirClock := rfl
@[simp] theorem Engine.beginSelect_program (ch : Channel) (o : Owner p) :
    (e.beginSelect ch o).program = e.program := rfl
@[simp] theorem Engine.beginSelect_script (ch : Channel) (o : Owner p) :
    (e.beginSelect ch o).script = e.script := rfl
@[simp] theorem Engine.beginSelect_trace (ch : Channel) (o : Owner p) :
    (e.beginSelect ch o).trace = e.trace := rfl
@[simp] theorem Engine.beginSelect_draws (ch : Channel) (o : Owner p) :
    (e.beginSelect ch o).draws = e.draws := rfl

/-! ### `beginShiftIn` -/

@[simp] theorem Engine.beginShiftIn_life (o : Owner p) : (e.beginShiftIn o).life = e.life := rfl
@[simp] theorem Engine.beginShiftIn_pinData (o : Owner p) :
    (e.beginShiftIn o).pinData = e.pinData := rfl
@[simp] theorem Engine.beginShiftIn_pinClock (o : Owner p) :
    (e.beginShiftIn o).pinClock = e.pinClock := rfl
@[simp] theorem Engine.beginShiftIn_gainA (o : Owner p) : (e.beginShiftIn o).gainA = e.gainA := rfl
@[simp] theorem Engine.beginShiftIn_gainB (o : Owner p) : (e.beginShiftIn o).gainB = e.gainB := rfl
@[simp] theorem Engine.beginShiftIn_offsetA (o : Owner p) :
    (e.beginShiftIn o).offsetA = e.offsetA := rfl
@[simp] theorem Engine.beginShiftIn_offsetB (o : Owner p) :
    (e.beginShiftIn o).offsetB = e.offsetB := rfl
@[simp] theorem Engine.beginShiftIn_acc (o : Owner p) : (e.beginShiftIn o).acc = e.acc := rfl
@[simp] theorem Engine.beginShiftIn_sum (o : Owner p) : (e.beginShiftIn o).sum = e.sum := rfl
@[simp] theorem Engine.beginShiftIn_fsum (o : Owner p) : (e.beginShiftIn o).fsum = e.fsum := rfl
@[simp] theorem Engine.beginShiftIn_result (o : Owner p) :
    (e.beginShiftIn o).result = e.result := rfl
@[simp] theorem Engine.beginShiftIn_seq (o : Owner p) :
    (e.beginShiftIn o).seq = .shiftIn .poll o := rfl
@[simp] theorem Engine.beginShiftIn_bit (o : Owner p) : (e.beginShiftIn o).bit = e.bit := rfl
@[simp] theorem Engine.beginShiftIn_pcnt (o : Owner p) : (e.beginShiftIn o).pcnt = e.pcnt := rfl
@[simp] theorem Engine.beginShiftIn_cnt (o : Owner p) : (e.beginShiftIn o).cnt = e.cnt := rfl
@[simp] theorem Engine.beginShiftIn_clkOut (o : Owner p) :
    (e.beginShiftIn o).clkOut = e.clkOut := rfl
@[simp] theorem Engine.beginShiftIn_dirData (o : Owner p) :
    (e.beginShiftIn o).dirData = e.dirData := rfl
@[simp] theorem Engine.beginShiftIn_dirClock (o : Owner p) :
    (e.beginShiftIn o).dirClock = e.dirClock := rfl
@[simp] theorem Engine.beginShiftIn_program (o : Owner p) :
    (e.beginShiftIn o).program = e.program := rfl
@[simp] theorem Engine.beginShiftIn_script (o : Owner p) :
    (e.beginShiftIn o).script = e.script := rfl
@[simp] theorem Engine.beginShiftIn_trace (o : Owner p) : (e.beginShiftIn o).trace = e.trace := rfl
@[simp] theorem Engine.beginShiftIn_draws (o : Owner p) : (e.beginShiftIn o).draws = e.draws := rfl

/-! ### `clearAcc` -/

@[simp] theorem Engine.clearAcc_life (o : Owner p) : (e.clearAcc o).life = e.life := rfl
@[simp] theorem Engine.clearAcc_pinData (o : Owner p) : (e.clearAcc o).pinData = e.pinData := rfl
@[simp] theorem Engine.clearAcc_pinClock (o : Owner p) : (e.clearAcc o).pinClock = e.pinClock := rfl
@[simp] theorem Engine.clearAcc_gainA (o : Owner p) : (e.clearAcc o).gainA = e.gainA := rfl
@[simp] theorem Engine.clearAcc_gainB (o : Owner p) : (e.clearAcc o).gainB = e.gainB := rfl
@[simp] theorem Engine.clearAcc_offsetA (o : Owner p) : (e.clearAcc o).offsetA = e.offsetA := rfl
@[simp] theorem Engine.clearAcc_offsetB (o : Owner p) : (e.clearAcc o).offsetB = e.offsetB := rfl
@[simp] theorem Engine.clearAcc_acc (o : Owner p) : (e.clearAcc o).acc = 0 := rfl
@[simp] theorem Engine.clearAcc_sum (o : Owner p) : (e.clearAcc o).sum = e.sum := rfl
@[simp] theorem Engine.clearAcc_fsum (o : Owner p) : (e.clearAcc o).fsum = e.fsum := rfl
@[simp] theorem Engine.clearAcc_result (o : Owner p) : (e.clearAcc o).result = e.result := rfl
@[simp] theorem Engine.clearAcc_seq (o : Owner p) : (e.clearAcc o).seq = .shiftIn .rise o := rfl
@[simp] theorem Engine.clearAcc_bit (o : Owner p) :
    (e.clearAcc o).bit = BitVec.ofNat 5 (p.sampleBits - 1) := rfl
@[simp] theorem Engine.clearAcc_pcnt (o : Owner p) : (e.clearAcc o).pcnt = e.pcnt := rfl
@[simp] theorem Engine.clearAcc_cnt (o : Owner p) : (e.clearAcc o).cnt = e.cnt := rfl
@[simp] theorem Engine.clearAcc_clkOut (o : Owner p) : (e.clearAcc o).clkOut = e.clkOut := rfl
@[simp] theorem Engine.clearAcc_dirData (o : Owner p) : (e.clearAcc o).dirData = e.dirData := rfl
@[simp] theorem Engine.clearAcc_dirClock (o : Owner p) : (e.clearAcc o).dirClock = e.dirClock := rfl
@[simp] theorem Engine.clearAcc_program (o : Owner p) : (e.clearAcc o).program = e.program := rfl
@[simp] theorem Engine.clearAcc_script (o : Owner p) : (e.clearAcc o).script = e.script := rfl
@[simp] theorem Engine.clearAcc_trace (o : Owner p) : (e.clearAcc o).trace = e.trace := rfl
@[simp] theorem Engine.clearAcc_draws (o : Owner p) : (e.clearAcc o).draws = e.draws := rfl

/-! ### `answered` -/

@[simp] theorem Engine.answered_life : e.answered.life = e.life := by
  simp only [Engine.answered]; split <;> rfl
@[simp] theorem Engine.answered_pinData : e.answered.pinData = e.pinData := by
  simp only [Engine.answered]; split <;> rfl
@[simp] theorem Engine.answered_pinClock : e.answered.pinClock = e.pinClock := by
  simp only [Engine.answered]; split <;> rfl
@[simp] theorem Engine.answered_gainA : e.answered.gainA = e.gainA := by
  simp only [Engine.answered]; split <;> rfl
@[simp] theorem Engine.answered_gainB : e.answered.gainB = e.gainB := by
  simp only [Engine.answered]; split <;> rfl
@[simp] theorem Engine.answered_offsetA : e.answered.offsetA = e.offsetA := by
  simp only [Engine.answered]; split <;> rfl
@[simp] theorem Engine.answered_offsetB : e.answered.offsetB = e.offsetB := by
  simp only [Engine.answered]; split <;> rfl
@[simp] theorem Engine.answered_acc : e.answered.acc = e.acc := by
  simp only [Engine.answered]; split <;> rfl
@[simp] theorem Engine.answered_sum : e.answered.sum = e.sum := by
  simp only [Engine.answered]; split <;> rfl
@[simp] theorem Engine.answered_fsum : e.answered.fsum = e.fsum := by
  simp only [Engine.answered]; split <;> rfl
@[simp] theorem Engine.answered_result : e.answered.result = e.result := by
  simp only [Engine.answered]; split <;> rfl
@[simp] theorem Engine.answered_seq : e.answered.seq = e.seq := by
  simp only [Engine.answered]; split <;> rfl
@[simp] theorem Engine.answered_bit : e.answered.bit = e.bit := by
  simp only [Engine.answered]; split <;> rfl
@[simp] theorem Engine.answered_pcnt : e.answered.pcnt = e.pcnt := by
  simp only [Engine.answered]; split <;> rfl
@[simp] theorem Engine.answered_cnt : e.answered.cnt = e.cnt := by
  simp only [Engine.answered]; split <;> rfl
@[simp] theorem Engine.answered_clkOut : e.answered.clkOut = e.clkOut := by
  simp only [Engine.answered]; split <;> rfl
@[simp] theorem Engine.answered_dirData : e.answered.dirData = e.dirData := by
  simp only [Engine.answered]; split <;> rfl
@[simp] theorem Engine.answered_dirClock : e.answered.dirClock = e.dirClock := by
  simp only [Engine.answered]; split <;> rfl
@[simp] theorem Engine.answered_program : e.answered.program = e.program := by
  simp only [Engine.answered]; split <;> rfl
@[simp] theorem Engine.answered_trace : e.answered.trace = e.trace := by
  simp only [Engine.answered]; split <;> rfl

/-! ### `pinRead` -/

@[simp] theorem Engine.pinRead_life : e.pinRead.life = e.life := by
  simp only [Engine.pinRead, Engine.answered]; split <;> rfl
@[simp] theorem Engine.pinRead_pinData : e.pinRead.pinData = e.pinData := by
  simp only [Engine.pinRead, Engine.answered]; split <;> rfl
@[simp] theorem Engine.pinRead_pinClock : e.pinRead.pinClock = e.pinClock := by
  simp only [Engine.pinRead, Engine.answered]; split <;> rfl
@[simp] theorem Engine.pinRead_gainA : e.pinRead.gainA = e.gainA := by
  simp only [Engine.pinRead, Engine.answered]; split <;> rfl
@[simp] theorem Engine.pinRead_gainB : e.pinRead.gainB = e.gainB := by
  simp only [Engine.pinRead, Engine.answered]; split <;> rfl
@[simp] theorem Engine.pinRead_offsetA : e.pinRead.offsetA = e.offsetA := by
  simp only [Engine.pinRead, Engine.answered]; split <;> rfl
@[simp] theorem Engine.pinRead_offsetB : e.pinRead.offsetB = e.offsetB := by
  simp only [Engine.pinRead, Engine.answered]; split <;> rfl
@[simp] theorem Engine.pinRead_acc : e.pinRead.acc = e.acc := by
  simp only [Engine.pinRead, Engine.answered]; split <;> rfl
@[simp] theorem Engine.pinRead_sum : e.pinRead.sum = e.sum := by
  simp only [Engine.pinRead, Engine.answered]; split <;> rfl
@[simp] theorem Engine.pinRead_fsum : e.pinRead.fsum = e.fsum := by
  simp only [Engine.pinRead, Engine.answered]; split <;> rfl
@[simp] theorem Engine.pinRead_result : e.pinRead.result = e.result := by
  simp only [Engine.pinRead, Engine.answered]; split <;> rfl
@[simp] theorem Engine.pinRead_seq : e.pinRead.seq = e.seq := by
  simp only [Engine.pinRead, Engine.answered]; split <;> rfl
@[simp] theorem Engine.pinRead_bit : e.pinRead.bit = e.bit := by
  simp only [Engine.pinRead, Engine.answered]; split <;> rfl
@[simp] theorem Engine.pinRead_pcnt : e.pinRead.pcnt = e.pcnt := by
  simp only [Engine.pinRead, Engine.answered]; split <;> rfl
@[simp] theorem Engine.pinRead_cnt : e.pinRead.cnt = e.cnt := by
  simp only [Engine.pinRead, Engine.answered]; split <;> rfl
@[simp] theorem Engine.pinRead_clkOut : e.pinRead.clkOut = e.clkOut := by
  simp only [Engine.pinRead, Engine.answered]; split <;> rfl
@[simp] theorem Engine.pinRead_dirData : e.pinRead.dirData = e.dirData := by
  simp only [Engine.pinRead, Engine.answered]; split <;> rfl
@[simp] theorem Engine.pinRead_dirClock : e.pinRead.dirClock = e.dirClock := by
  simp only [Engine.pinRead, Engine.answered]; split <;> rfl
@[simp] theorem Engine.pinRead_program : e.pinRead.program = e.program := by
  simp only [Engine.pinRead, Engine.answered]; split <;> rfl

/-! ### `setOffset_a` -/

@[simp] theorem Engine.setOffset_a_life (v : p.Container) : (e.setOffset .a v).life = e.life := rfl
@[simp] theorem Engine.setOffset_a_pinData (v : p.Container) :
    (e.setOffset .a v).pinData = e.pinData := rfl
@[simp] theorem Engine.setOffset_a_pinClock (v : p.Container) :
    (e.setOffset .a v).pinClock = e.pinClock := rfl
@[simp] theorem Engine.setOffset_a_gainA (v : p.Container) :
    (e.setOffset .a v).gainA = e.gainA := rfl
@[simp] theorem Engine.setOffset_a_gainB (v : p.Container) :
    (e.setOffset .a v).gainB = e.gainB := rfl
@[simp] theorem Engine.setOffset_a_offsetB (v : p.Container) :
    (e.setOffset .a v).offsetB = e.offsetB := rfl
@[simp] theorem Engine.setOffset_a_acc (v : p.Container) : (e.setOffset .a v).acc = e.acc := rfl
@[simp] theorem Engine.setOffset_a_sum (v : p.Container) : (e.setOffset .a v).sum = e.sum := rfl
@[simp] theorem Engine.setOffset_a_fsum (v : p.Container) : (e.setOffset .a v).fsum = e.fsum := rfl
@[simp] theorem Engine.setOffset_a_result (v : p.Container) :
    (e.setOffset .a v).result = e.result := rfl
@[simp] theorem Engine.setOffset_a_seq (v : p.Container) : (e.setOffset .a v).seq = e.seq := rfl
@[simp] theorem Engine.setOffset_a_bit (v : p.Container) : (e.setOffset .a v).bit = e.bit := rfl
@[simp] theorem Engine.setOffset_a_pcnt (v : p.Container) : (e.setOffset .a v).pcnt = e.pcnt := rfl
@[simp] theorem Engine.setOffset_a_cnt (v : p.Container) : (e.setOffset .a v).cnt = e.cnt := rfl
@[simp] theorem Engine.setOffset_a_clkOut (v : p.Container) :
    (e.setOffset .a v).clkOut = e.clkOut := rfl
@[simp] theorem Engine.setOffset_a_dirData (v : p.Container) :
    (e.setOffset .a v).dirData = e.dirData := rfl
@[simp] theorem Engine.setOffset_a_dirClock (v : p.Container) :
    (e.setOffset .a v).dirClock = e.dirClock := rfl
@[simp] theorem Engine.setOffset_a_program (v : p.Container) :
    (e.setOffset .a v).program = e.program := rfl
@[simp] theorem Engine.setOffset_a_script (v : p.Container) :
    (e.setOffset .a v).script = e.script := rfl
@[simp] theorem Engine.setOffset_a_trace (v : p.Container) :
    (e.setOffset .a v).trace = e.trace := rfl
@[simp] theorem Engine.setOffset_a_draws (v : p.Container) :
    (e.setOffset .a v).draws = e.draws := rfl

/-! ### `setOffset_b` -/

@[simp] theorem Engine.setOffset_b_life (v : p.Container) : (e.setOffset .b v).life = e.life := rfl
@[simp] theorem Engine.setOffset_b_pinData (v : p.Container) :
    (e.setOffset .b v).pinData = e.pinData := rfl
@[simp] theorem Engine.setOffset_b_pinClock (v : p.Container) :
    (e.setOffset .b v).pinClock = e.pinClock := rfl
@[simp] theorem Engine.setOffset_b_gainA (v : p.Container) :
    (e.setOffset .b v).gainA = e.gainA := rfl
@[simp] theorem Engine.setOffset_b_gainB (v : p.Container) :
    (e.setOffset .b v).gainB = e.gainB := rfl
@[simp] theorem Engine.setOffset_b_offsetA (v : p.Container) :
    (e.setOffset .b v).offsetA = e.offsetA := rfl
@[simp] theorem Engine.setOffset_b_acc (v : p.Container) : (e.setOffset .b v).acc = e.acc := rfl
@[simp] theorem Engine.setOffset_b_sum (v : p.Container) : (e.setOffset .b v).sum = e.sum := rfl
@[simp] theorem Engine.setOffset_b_fsum (v : p.Container) : (e.setOffset .b v).fsum = e.fsum := rfl
@[simp] theorem Engine.setOffset_b_result (v : p.Container) :
    (e.setOffset .b v).result = e.result := rfl
@[simp] theorem Engine.setOffset_b_seq (v : p.Container) : (e.setOffset .b v).seq = e.seq := rfl
@[simp] theorem Engine.setOffset_b_bit (v : p.Container) : (e.setOffset .b v).bit = e.bit := rfl
@[simp] theorem Engine.setOffset_b_pcnt (v : p.Container) : (e.setOffset .b v).pcnt = e.pcnt := rfl
@[simp] theorem Engine.setOffset_b_cnt (v : p.Container) : (e.setOffset .b v).cnt = e.cnt := rfl
@[simp] theorem Engine.setOffset_b_clkOut (v : p.Container) :
    (e.setOffset .b v).clkOut = e.clkOut := rfl
@[simp] theorem Engine.setOffset_b_dirData (v : p.Container) :
    (e.setOffset .b v).dirData = e.dirData := rfl
@[simp] theorem Engine.setOffset_b_dirClock (v : p.Container) :
    (e.setOffset .b v).dirClock = e.dirClock := rfl
@[simp] theorem Engine.setOffset_b_program (v : p.Container) :
    (e.setOffset .b v).program = e.program := rfl
@[simp] theorem Engine.setOffset_b_script (v : p.Container) :
    (e.setOffset .b v).script = e.script := rfl
@[simp] theorem Engine.setOffset_b_trace (v : p.Container) :
    (e.setOffset .b v).trace = e.trace := rfl
@[simp] theorem Engine.setOffset_b_draws (v : p.Container) :
    (e.setOffset .b v).draws = e.draws := rfl

@[simp] theorem Engine.setOffset_a_offsetA (v : p.Container) : (e.setOffset .a v).offsetA = v := rfl
@[simp] theorem Engine.setOffset_b_offsetB (v : p.Container) : (e.setOffset .b v).offsetB = v := rfl

/-- The one event of a read is on the DATA pin and carries the level returned (R62, R64). -/
@[simp] theorem Engine.pinRead_trace :
    e.pinRead.trace = e.trace ++ [.read e.pinData e.nextLevel] := by
  simp [Engine.pinRead, Engine.emit, Engine.pinOf]

/-- A read whose answer the script holds takes it from the script. -/
theorem Engine.nextLevel_of_script {l : Level} {rest : List Level} (h : e.script = l :: rest) :
    e.nextLevel = l := by
  simp [Engine.nextLevel, h]

/-- A read whose answer the script holds moves the script, and draws nothing. -/
theorem Engine.pinRead_of_script {l : Level} {rest : List Level} (h : e.script = l :: rest) :
    e.pinRead = { e with script := rest, trace := e.trace ++ [.read e.pinData l] } := by
  simp [Engine.pinRead, Engine.emit, Engine.pinOf, Engine.answered, Engine.nextLevel, h]

end Sys2Proof.Machine
end

