-- ==== Sys2Proof/Laws/Ops.lean ====
section
/-! SUPPORT. Once for each shared operation, everything it can do. -/

namespace Sys2Proof.Machine

variable {p : Params} {e t : Engine p}

/-! ## The checks -/

@[simp] theorem whenIdle_of_idle (h : e.seq = .idle) (k : Outcome p) : whenIdle e k = k := by
  simp [whenIdle, h]

theorem whenIdle_of_busy (h : e.seq ≠ .idle) (k : Outcome p) : whenIdle e k = .refused .busy := by
  simp [whenIdle, h]

@[simp] theorem whenLive_of_live (h : e.seq = .idle) (hl : e.life = .live) (k : Outcome p) :
    whenLive e k = k := by
  simp [whenLive, h, hl]

theorem whenLive_of_not_live (h : e.seq = .idle) (hl : e.life ≠ .live) (k : Outcome p) :
    whenLive e k = .refused .wrongLifecycle := by
  simp [whenLive, h, hl]

theorem whenIdle_next_iff {k : Outcome p} :
    whenIdle e k = .next t ↔ e.seq = .idle ∧ k = .next t := by
  unfold whenIdle
  split <;> simp_all

theorem whenLive_next_iff {k : Outcome p} :
    whenLive e k = .next t ↔ e.seq = .idle ∧ e.life = .live ∧ k = .next t := by
  rw [whenLive, whenIdle_next_iff]
  split <;> simp_all

theorem whenIdle_fault_iff {k : Outcome p} {f : Fault} :
    whenIdle e k = .fault f ↔ e.seq = .idle ∧ k = .fault f := by
  unfold whenIdle
  split <;> simp_all

theorem whenLive_fault_iff {k : Outcome p} {f : Fault} :
    whenLive e k = .fault f ↔ e.seq = .idle ∧ e.life = .live ∧ k = .fault f := by
  rw [whenLive, whenIdle_fault_iff]
  split <;> simp_all

/-! ## The wait -/

@[simp] theorem dataReady_low : dataReady .low = true := rfl
@[simp] theorem dataReady_high : dataReady .high = false := rfl

theorem waitReady_of_low (f : Engine p → Outcome p) (h : e.nextLevel = .low) :
    waitReady f e = f e.pinRead := by
  simp [waitReady, h]

theorem waitReady_of_high (f : Engine p → Outcome p) (h : e.nextLevel = .high) :
    waitReady f e = .next e.pinRead := by
  simp [waitReady, h]

/-- A poll read HIGH and the wait goes on, or read LOW and what follows the wait was done (R120). -/
theorem waitReady_cases {f : Engine p → Outcome p} {r : Outcome p} (h : waitReady f e = r) :
    (e.nextLevel = .high ∧ r = .next e.pinRead) ∨ (e.nextLevel = .low ∧ r = f e.pinRead) := by
  cases hl : e.nextLevel with
  | low => exact .inr ⟨rfl, by rw [← h, waitReady_of_low f hl]⟩
  | high => exact .inl ⟨rfl, by rw [← h, waitReady_of_high f hl]⟩

/-! ## The loops -/

theorem pulseLoop_zero {o : Owner p} {done : Engine p → Outcome p} (h : e.pcnt = 0) :
    pulseLoop o done e = done e := if_pos h

theorem pulseLoop_more {o : Owner p} {done : Engine p → Outcome p} (h : e.pcnt ≠ 0) :
    pulseLoop o done e = .next { e with seq := .select .rise o } := if_neg h

theorem afterSample_more {o : Owner p} {done : Engine p → Outcome p} (h : e.bit.toNat ≠ p.lowestBit) :
    afterSample o done e = .next { e with bit := e.bit - 1, seq := .shiftIn .rise o } := if_pos h

theorem afterSample_end {o : Owner p} {done : Engine p → Outcome p} (h : e.bit.toNat = p.lowestBit)
    (h0 : p.lowestBit = 0) : afterSample o done e = done e.takeSample :=
  (if_neg (not_not.2 h)).trans (if_pos h0)

theorem afterSample_plain {o : Owner p} {done : Engine p → Outcome p} (h : e.bit.toNat = p.lowestBit)
    (h0 : p.lowestBit ≠ 0) :
    afterSample o done e = .next { e with seq := .shiftIn .plainRise o } :=
  (if_neg (not_not.2 h)).trans (if_neg h0)

theorem afterPlain_end {o : Owner p} {done : Engine p → Outcome p} (h : e.bit.toNat ≤ 1) :
    afterPlain o done e = done e.takeSample := if_pos h

theorem afterPlain_more {o : Owner p} {done : Engine p → Outcome p} (h : ¬ e.bit.toNat ≤ 1) :
    afterPlain o done e = .next { e with bit := e.bit - 1, seq := .shiftIn .plainRise o } := if_neg h

theorem calibrateLoop_more {ch : Channel} {n : p.Count} (h : e.cnt ≠ 0) :
    calibrateLoop ch n e = .next (e.beginSelect ch (.calibrate ch n)) := if_pos h

theorem calibrateLoop_fault {ch : Channel} (h : e.cnt = 0) :
    calibrateLoop ch 0 e = .fault .divideByZero :=
  (if_neg (not_not.2 h)).trans (if_pos rfl)

theorem calibrateLoop_end {ch : Channel} {n : p.Count} (h : e.cnt = 0) (hn : n ≠ 0) :
    calibrateLoop ch n e =
      .next (e.storeMean ch n).releasePulses.releaseShift.releaseSum.finish :=
  (if_neg (not_not.2 h)).trans (if_neg hn)

theorem avgReadLoop_more {ch : Channel} {n : p.Count} (h : e.cnt ≠ 0) :
    avgReadLoop ch n e = .next (e.beginSelect ch (.avgRead ch n)) := if_pos h

theorem avgReadLoop_fault {ch : Channel} (h : e.cnt = 0) :
    avgReadLoop ch 0 e = .fault .divideByZero :=
  (if_neg (not_not.2 h)).trans (if_pos rfl)

theorem avgReadLoop_end {ch : Channel} {n : p.Count} (h : e.cnt = 0) (hn : n ≠ 0) :
    avgReadLoop ch n e =
      .next (e.storeAverage n).releasePulses.releaseShift.releaseFsum.finish :=
  (if_neg (not_not.2 h)).trans (if_neg hn)

/-- Another pulse, or what follows the last one (R124). -/
theorem pulseLoop_cases {o : Owner p} {done : Engine p → Outcome p} {r : Outcome p}
    (h : pulseLoop o done e = r) :
    (e.pcnt = 0 ∧ r = done e) ∨ (e.pcnt ≠ 0 ∧ r = .next { e with seq := .select .rise o }) := by
  by_cases hp : e.pcnt = 0
  · exact .inl ⟨hp, by rw [← h, pulseLoop_zero hp]⟩
  · exact .inr ⟨hp, by rw [← h, pulseLoop_more hp]⟩

/-- The next sampled slot, the first slot without a sample, or the end of the frame (R127 to R129). -/
theorem afterSample_cases {o : Owner p} {done : Engine p → Outcome p} {r : Outcome p}
    (h : afterSample o done e = r) :
    (e.bit.toNat ≠ p.lowestBit ∧ r = .next { e with bit := e.bit - 1, seq := .shiftIn .rise o }) ∨
    (e.bit.toNat = p.lowestBit ∧ p.lowestBit ≠ 0 ∧ r = .next { e with seq := .shiftIn .plainRise o }) ∨
    (e.bit.toNat = p.lowestBit ∧ p.lowestBit = 0 ∧ r = done e.takeSample) := by
  by_cases hb : e.bit.toNat = p.lowestBit
  · by_cases h0 : p.lowestBit = 0
    · exact .inr (.inr ⟨hb, h0, by rw [← h, afterSample_end hb h0]⟩)
    · exact .inr (.inl ⟨hb, h0, by rw [← h, afterSample_plain hb h0]⟩)
  · exact .inl ⟨hb, by rw [← h, afterSample_more hb]⟩

/-- The next slot without a sample, or the end of the frame (R129). -/
theorem afterPlain_cases {o : Owner p} {done : Engine p → Outcome p} {r : Outcome p}
    (h : afterPlain o done e = r) :
    (1 < e.bit.toNat ∧ r = .next { e with bit := e.bit - 1, seq := .shiftIn .plainRise o }) ∨
    (e.bit.toNat ≤ 1 ∧ r = done e.takeSample) := by
  by_cases hb : e.bit.toNat ≤ 1
  · exact .inr ⟨hb, by rw [← h, afterPlain_end hb]⟩
  · exact .inl ⟨by omega, by rw [← h, afterPlain_more hb]⟩

/-- Another read, the fault, or the mean (R160, R162). -/
theorem calibrateLoop_cases {ch : Channel} {n : p.Count} {r : Outcome p}
    (h : calibrateLoop ch n e = r) :
    (e.cnt ≠ 0 ∧ r = .next (e.beginSelect ch (.calibrate ch n))) ∨
    (e.cnt = 0 ∧ n = 0 ∧ r = .fault .divideByZero) ∨
    (e.cnt = 0 ∧ n ≠ 0 ∧
      r = .next (e.storeMean ch n).releasePulses.releaseShift.releaseSum.finish) := by
  by_cases hc : e.cnt = 0
  · by_cases hn : n = 0
    · exact .inr (.inl ⟨hc, hn, by rw [← h, hn, calibrateLoop_fault hc]⟩)
    · exact .inr (.inr ⟨hc, hn, by rw [← h, calibrateLoop_end hc hn]⟩)
  · exact .inl ⟨hc, by rw [← h, calibrateLoop_more hc]⟩

/-- Another read, the fault, or the mean (R170, R172). -/
theorem avgReadLoop_cases {ch : Channel} {n : p.Count} {r : Outcome p}
    (h : avgReadLoop ch n e = r) :
    (e.cnt ≠ 0 ∧ r = .next (e.beginSelect ch (.avgRead ch n))) ∨
    (e.cnt = 0 ∧ n = 0 ∧ r = .fault .divideByZero) ∨
    (e.cnt = 0 ∧ n ≠ 0 ∧
      r = .next (e.storeAverage n).releasePulses.releaseShift.releaseFsum.finish) := by
  by_cases hc : e.cnt = 0
  · by_cases hn : n = 0
    · exact .inr (.inl ⟨hc, hn, by rw [← h, hn, avgReadLoop_fault hc]⟩)
    · exact .inr (.inr ⟨hc, hn, by rw [← h, avgReadLoop_end hc hn]⟩)
  · exact .inl ⟨hc, by rw [← h, avgReadLoop_more hc]⟩

/-! ## Sums and means -/

/-- A number that fits is stored as it is, and reads back as it was; any other is a free value (log 23). -/
theorem fitted_cases (w : Nat) (v : Int) :
    (-2 ^ (w - 1) ≤ v ∧ v < 2 ^ (w - 1) ∧ fitted w v = BitVec.ofInt w v) ∨
    (¬ (-2 ^ (w - 1) ≤ v ∧ v < 2 ^ (w - 1)) ∧ fitted w v = Config.overflowed w v) := by
  by_cases h : -2 ^ (w - 1) ≤ v ∧ v < 2 ^ (w - 1)
  · exact .inl ⟨h.1, h.2, if_pos h⟩
  · exact .inr ⟨h, if_neg h⟩

theorem fitted_of {w : Nat} {v : Int} (h : -2 ^ (w - 1) ≤ v ∧ v < 2 ^ (w - 1)) :
    fitted w v = BitVec.ofInt w v := if_pos h

theorem fitted_toInt {w : Nat} {v : Int} (hw : 0 < w) (h : -2 ^ (w - 1) ≤ v ∧ v < 2 ^ (w - 1)) :
    (fitted w v).toInt = v := by
  rw [fitted_of h, BitVec.toInt_ofInt_eq_self hw h.1 h.2]

/-! ## The calibrated-read path -/

theorem overflows_iff {v : Int} : overflows p v = true ↔ 2 ^ (p.accW - 1) ≤ v.natAbs := by
  simp [overflows]

theorem calibratedThen_fits {ch : Channel} {k : Engine p → Outcome p}
    (h : (fixedPoint p ch e.gainA e.result.toInt (e.offsetOf ch).toInt).natAbs < 2 ^ (p.accW - 1)) :
    calibratedThen ch k e =
      k { e with
        result := BitVec.ofInt p.accW (fixedPoint p ch e.gainA e.result.toInt (e.offsetOf ch).toInt) } := by
  have : overflows p (fixedPoint p ch e.gainA e.result.toInt (e.offsetOf ch).toInt) = false := by
    simp [overflows]; omega
  simp [calibratedThen, this]

/-- The same with the gain, the raw sample and the offset named. -/
theorem calibratedThen_of {ch : Channel} {k : Engine p → Outcome p} {g : GainSetting} {raw off : Int}
    (hg : e.gainA = g) (hr : e.result.toInt = raw) (ho : (e.offsetOf ch).toInt = off)
    (h : (fixedPoint p ch g raw off).natAbs < 2 ^ (p.accW - 1)) :
    calibratedThen ch k e = k { e with result := BitVec.ofInt p.accW (fixedPoint p ch g raw off) } := by
  subst hg hr ho
  exact calibratedThen_fits h

theorem calibratedThen_refused {ch : Channel} {k : Engine p → Outcome p}
    (h : 2 ^ (p.accW - 1) ≤ (fixedPoint p ch e.gainA e.result.toInt (e.offsetOf ch).toInt).natAbs) :
    calibratedThen ch k e = .refused .resultOverflow := by
  simp [calibratedThen, overflows_iff.2 h]

/-- The result is stored and what follows is done, or it does not fit (R152, R156). -/
theorem calibratedThen_cases {ch : Channel} {k : Engine p → Outcome p} {r : Outcome p}
    (h : calibratedThen ch k e = r) :
    let v := fixedPoint p ch e.gainA e.result.toInt (e.offsetOf ch).toInt
    (v.natAbs < 2 ^ (p.accW - 1) ∧ r = k { e with result := BitVec.ofInt p.accW v }) ∨
    (2 ^ (p.accW - 1) ≤ v.natAbs ∧ r = .refused .resultOverflow) := by
  intro v
  by_cases hv : v.natAbs < 2 ^ (p.accW - 1)
  · exact .inl ⟨hv, by rw [← h, calibratedThen_fits hv]⟩
  · exact .inr ⟨by omega, by
      rw [← h, calibratedThen_refused (by show 2 ^ (p.accW - 1) ≤ v.natAbs; omega)]⟩

/-! ## What follows SELECT and SHIFTIN -/

/-- The end, or SHIFTIN (R124, R150). -/
theorem afterSelect_cases (o : Owner p) (e : Engine p) :
    (o = .alone ∧ afterSelect o e = .next e.releasePulses.finish) ∨
    (o ≠ .alone ∧ afterSelect o e = .next (e.beginShiftIn o)) := by
  cases o <;> simp [afterSelect]

/-! ## Channels and gains -/

@[simp] theorem gainOf_a : e.gainOf .a = e.gainA := rfl
@[simp] theorem gainOf_b : e.gainOf .b = e.gainB := rfl
@[simp] theorem offsetOf_a : e.offsetOf .a = e.offsetA := rfl
@[simp] theorem offsetOf_b : e.offsetOf .b = e.offsetB := rfl
@[simp] theorem pinOf_data : e.pinOf .data = e.pinData := rfl
@[simp] theorem pinOf_clock : e.pinOf .clock = e.pinClock := rfl

theorem gainOf_congr {ch : Channel} (ha : t.gainA = e.gainA) (hb : t.gainB = e.gainB) :
    t.gainOf ch = e.gainOf ch := by
  cases ch
  · exact ha
  · exact hb

theorem offsetOf_congr {ch : Channel} (ha : t.offsetA = e.offsetA) (hb : t.offsetB = e.offsetB) :
    t.offsetOf ch = e.offsetOf ch := by
  cases ch
  · exact ha
  · exact hb

/-- A setting is stored in its channel's register, or the state is left as it is (R140, R141). -/
theorem offerGain_cases (ch : Channel) (g : GainSetting) (e : Engine p) :
    (ch = .a ∧ g ≠ .g32 ∧ e.offerGain ch g = { e with gainA := g }) ∨
    (ch = .b ∧ g = .g32 ∧ e.offerGain ch g = { e with gainB := .g32 }) ∨
    (inFamily ch g = false ∧ e.offerGain ch g = e) := by
  cases ch <;> cases g <;> simp [Engine.offerGain, inFamily, Engine.setGain]

/-! ## The whole machine -/

@[simp] theorem lift_next (e : Engine p) : lift (.next e) = .next ⟨p, e⟩ := rfl
@[simp] theorem lift_fault (f : Fault) : lift (p := p) (.fault f) = .fault f := rfl
@[simp] theorem lift_refused (r : Refusal) : lift (p := p) (.refused r) = .refused r := rfl

/-- A next state has the parameters of the state it comes from (R5). -/
theorem lift_next_iff {r : Outcome p} {u : State} : lift r = .next u ↔ ∃ t, r = .next t ∧ u = ⟨p, t⟩ := by
  cases r <;> simp [eq_comm]

@[simp] theorem lift_next_mk_iff {r : Outcome p} : lift r = .next ⟨p, t⟩ ↔ r = .next t := by
  cases r <;> simp

@[simp] theorem lift_fault_iff {r : Outcome p} {f : Fault} : lift r = .fault f ↔ r = .fault f := by
  cases r <;> simp

@[simp] theorem lift_refused_iff {r : Outcome p} {x : Refusal} :
    lift r = .refused x ↔ r = .refused x := by
  cases r <;> simp

@[simp] theorem State.act_mk (f : Engine p → Outcome p) : State.act ⟨p, e⟩ f = lift (f e) := rfl

theorem step_of_busy (h : e.seq ≠ .idle) : step ⟨p, e⟩ = lift (engineStep e) := by
  simp [step, h]

theorem step_of_done (h : e.seq = .idle) (hp : e.program = []) : step ⟨p, e⟩ = .next ⟨p, e⟩ := by
  simp [step, h, hp]

theorem step_of_word {w : Word} {rest : List Word} (h : e.seq = .idle)
    (hp : e.program = w :: rest) :
    step ⟨p, e⟩ = issueWord w ⟨p, { e with program := rest }⟩ := by
  simp [step, h, hp]

/-- A step is the engine's, or HOST's next command, or nothing where there is none. -/
theorem step_cases {r : Result} (h : step ⟨p, e⟩ = r) :
    (e.seq ≠ .idle ∧ r = lift (engineStep e)) ∨
    (e.seq = .idle ∧ e.program = [] ∧ r = .next ⟨p, e⟩) ∨
    (∃ w rest i, e.seq = .idle ∧ e.program = w :: rest ∧ decode p w = .ok i ∧
      r = exec i ⟨p, { e with program := rest }⟩) ∨
    (∃ w rest why, e.seq = .idle ∧ e.program = w :: rest ∧ decode p w = .error why ∧
      r = .refused (.illegalCommand why)) := by
  subst h
  by_cases hi : e.seq = .idle
  · refine .inr ?_
    cases hp : e.program with
    | nil => exact .inl ⟨hi, rfl, step_of_done hi hp⟩
    | cons w rest =>
      refine .inr ?_
      rw [step_of_word hi hp]
      unfold issueWord
      cases hd : decode p w with
      | ok i => exact .inl ⟨w, rest, i, hi, rfl, hd, rfl⟩
      | error why => exact .inr ⟨w, rest, why, hi, rfl, hd, rfl⟩
  · exact .inl ⟨hi, step_of_busy hi⟩

/-- Every meaning acts on the engine and leaves the parameters alone (R5). -/
theorem exec_next {i : Instr} {u : State} (h : exec i ⟨p, e⟩ = .next u) :
    ∃ t, u = ⟨p, t⟩ ∧ exec i ⟨p, e⟩ = .next ⟨p, t⟩ := by
  have key : ∃ r : Outcome p, exec i ⟨p, e⟩ = lift r := by
    cases i <;> exact ⟨_, rfl⟩
  obtain ⟨r, hr⟩ := key
  rw [hr] at h
  obtain ⟨t, rfl, rfl⟩ := lift_next_iff.1 h
  exact ⟨t, rfl, hr⟩

end Sys2Proof.Machine
end

