-- ==== Sys2Proof/Laws/Engine.lean ====
section
/-! SUPPORT. What a step of SELECT or SHIFTIN can lead to, and which changes leave the invariant's
parts as they are. -/

namespace Sys2Proof.Machine

variable {p : Params} {e t : Engine p}

/-! ## The next state after a call -/

/-- After a poll that read LOW, and after each falling edge of SELECT (R124, R150). -/
theorem pulseLoop_next {o : Owner p} (h : pulseLoop o (afterSelect o) e = .next t) :
    (e.pcnt ≠ 0 ∧ t = { e with seq := .select .rise o }) ∨
    (e.pcnt = 0 ∧ o = .alone ∧ t = e.releasePulses.finish) ∨
    (e.pcnt = 0 ∧ o ≠ .alone ∧ t = e.beginShiftIn o) := by
  rcases pulseLoop_cases h with ⟨hp, h1⟩ | ⟨hp, h1⟩
  · rcases afterSelect_cases o e with ⟨ho, h2⟩ | ⟨ho, h2⟩ <;> rw [h2] at h1 <;> cases h1
    · exact .inr (.inl ⟨hp, ho, rfl⟩)
    · exact .inr (.inr ⟨hp, ho, rfl⟩)
  · cases h1
    exact .inl ⟨hp, rfl⟩

/-- After the last call of CALIBRATE's SHIFTIN, with the sample added (R160). -/
theorem calibrateLoop_next {ch : Channel} {n : p.Count} (h : calibrateLoop ch n e = .next t) :
    (e.cnt ≠ 0 ∧ t = e.beginSelect ch (.calibrate ch n)) ∨
    (e.cnt = 0 ∧ n ≠ 0 ∧ t = (e.storeMean ch n).releasePulses.releaseShift.releaseSum.finish) := by
  rcases calibrateLoop_cases h with ⟨hc, h1⟩ | ⟨_, _, h1⟩ | ⟨hc, hn, h1⟩ <;> cases h1
  · exact .inl ⟨hc, rfl⟩
  · exact .inr ⟨hc, hn, rfl⟩

/-- The same of AVGREAD (R170). -/
theorem avgReadLoop_next {ch : Channel} {n : p.Count} (h : avgReadLoop ch n e = .next t) :
    (e.cnt ≠ 0 ∧ t = e.beginSelect ch (.avgRead ch n)) ∨
    (e.cnt = 0 ∧ n ≠ 0 ∧ t = (e.storeAverage n).releasePulses.releaseShift.releaseFsum.finish) := by
  rcases avgReadLoop_cases h with ⟨hc, h1⟩ | ⟨_, _, h1⟩ | ⟨hc, hn, h1⟩ <;> cases h1
  · exact .inl ⟨hc, rfl⟩
  · exact .inr ⟨hc, hn, rfl⟩

/-- The calibrated-read path goes on only with a result that fits (R152, R156). -/
theorem calibratedThen_next {ch : Channel} {k : Engine p → Outcome p}
    (h : calibratedThen ch k e = .next t) :
    let v := fixedPoint p ch e.gainA e.result.toInt (e.offsetOf ch).toInt
    v.natAbs < 2 ^ (p.accW - 1) ∧ k { e with result := BitVec.ofInt p.accW v } = .next t := by
  rcases calibratedThen_cases h with ⟨hv, h1⟩ | ⟨_, h1⟩
  · exact ⟨hv, h1.symm⟩
  · cases h1

/-- A poll goes on as a poll, or with what follows the wait (R120). -/
theorem waitReady_next {f : Engine p → Outcome p} (h : waitReady f e = .next t) :
    (e.nextLevel = .high ∧ t = e.pinRead) ∨ (e.nextLevel = .low ∧ f e.pinRead = .next t) := by
  rcases waitReady_cases h with ⟨hl, h1⟩ | ⟨hl, h1⟩
  · cases h1
    exact .inl ⟨hl, rfl⟩
  · exact .inr ⟨hl, h1.symm⟩

/-! ## Changes the invariant's parts do not see -/

theorem Configured.congr (h : Configured e) (gainA : t.gainA = e.gainA) (gainB : t.gainB = e.gainB)
    (offsetA : t.offsetA = e.offsetA) (offsetB : t.offsetB = e.offsetB)
    (pinData : t.pinData = e.pinData) (pinClock : t.pinClock = e.pinClock)
    (dirData : t.dirData = e.dirData) (dirClock : t.dirClock = e.dirClock) : Configured t where
  gainB := gainB.trans h.gainB
  gainA := by rw [gainA]; exact h.gainA
  offsetA := by rw [offsetA]; exact h.offsetA
  offsetB := by rw [offsetB]; exact h.offsetB
  pins := by rw [pinData, pinClock]; exact h.pins
  dirData := dirData.trans h.dirData
  dirClock := dirClock.trans h.dirClock

theorem OwnerInv.congr {o : Owner p} (h : OwnerInv o e) (cnt : t.cnt = e.cnt) (sum : t.sum = e.sum)
    (fsum : t.fsum = e.fsum) : OwnerInv o t := by
  cases o <;> simp_all [OwnerInv]

end Sys2Proof.Machine
end

