-- ==== Sys2Proof/Laws/Run.lean ====
section
/-! SUPPORT. What the parts of an operation do in so many steps: runs put together, WAITRDY, the pulses of
SELECT, the sampled pulses of SHIFTIN. -/

namespace Sys2Proof.Machine

variable {p : Params} {e t : Engine p}

/-! ## Runs -/

@[simp] theorem run_zero (s : State) : run 0 s = .next s := rfl

/-- A run of one step more, whatever the machine. -/
theorem core_run_next {M : Host.Core} {k : Nat} {s t : M.State} (h : M.step s = .next t) :
    M.run (k + 1) s = M.run k t := by
  rw [Host.Core.run, h]

theorem core_run_fault {M : Host.Core} {k : Nat} {s : M.State} {f : M.Fault}
    (h : M.step s = .fault f) : M.run (k + 1) s = .fault f := by
  rw [Host.Core.run, h]

theorem core_run_refused {M : Host.Core} {k : Nat} {s : M.State} {r : M.Refusal}
    (h : M.step s = .refused r) : M.run (k + 1) s = .refused r := by
  rw [Host.Core.run, h]

theorem run_succ_eq (k : Nat) (s : State) : run (k + 1) s =
    match step s with
    | .next u => run k u
    | .fault f => .fault f
    | .refused r => .refused r := by
  cases h : step s with
  | next u => exact core_run_next (M := core) h
  | fault f => exact core_run_fault (M := core) h
  | refused r => exact core_run_refused (M := core) h

theorem run_succ (k : Nat) {s t : State} (h : step s = .next t) :
    run (k + 1) s = run k t := by
  rw [run_succ_eq, h]

/-- One step is a run. -/
theorem run_one (s : State) : run 1 s = step s := by
  rw [run_succ_eq 0 s]
  cases step s <;> rfl

/-- A run that reaches `t` goes on as a run from `t`. -/
theorem run_add (k : Nat) {t : State} : ∀ (m : Nat) (s : State), run m s = .next t →
    run (m + k) s = run k t := by
  intro m
  induction m with
  | zero =>
    intro s h
    cases h
    rw [Nat.zero_add]
  | succ m ih =>
    intro s h
    rw [run_succ_eq] at h
    cases hs : step s with
    | next u =>
      rw [hs] at h
      rw [Nat.add_right_comm, run_succ _ hs]
      exact ih u h
    | fault f => rw [hs] at h; cases h
    | refused f => rw [hs] at h; cases h

/-- The last step of a run decides its outcome. -/
theorem run_snoc {m : Nat} {s t : State} {r : Result} (h : run m s = .next t) (ht : step t = r) :
    run (m + 1) s = r := by
  rw [run_add 1 m s h, run_one, ht]

/-- The same of its first step. -/
theorem run_cons {m : Nat} {s t : State} {r : Result} (h : step s = .next t) (ht : run m t = r) :
    run (m + 1) s = r := by
  rw [run_succ m h, ht]

/-! ## WAITRDY -/

/-- Both waits of the command set poll by the same step (R120). -/
theorem step_poll_high {call : Seq p} {rest : List Level}
    (hc : (∃ o, call = .select .poll o) ∨ (∃ o, call = .shiftIn .poll o))
    (h : e.seq = call) (hs : e.script = .high :: rest) :
    step ⟨p, e⟩ = .next ⟨p, { e with script := rest, trace := e.trace ++ [.read e.pinData .high] }⟩ := by
  have hl : e.nextLevel = .high := Engine.nextLevel_of_script e hs
  rw [← Engine.pinRead_of_script e hs]
  rcases hc with ⟨o, rfl⟩ | ⟨o, rfl⟩
  · rw [step_of_busy (by simp [h])]
    simp only [engineStep, h, selectStep]
    rw [waitReady_of_high _ hl]
    rfl
  · rw [step_of_busy (by simp [h])]
    simp only [engineStep, h, shiftInStep]
    rw [waitReady_of_high _ hl]
    rfl

/-- `k` failed polls are `k` steps and `k` reads, and the wait is where it was (R120). -/
theorem run_polls {call : Seq p}
    (hc : (∃ o, call = .select .poll o) ∨ (∃ o, call = .shiftIn .poll o)) {rest : List Level} :
    ∀ (k : Nat) (e : Engine p), e.seq = call → e.script = List.replicate k .high ++ rest →
      run k ⟨p, e⟩ =
        .next ⟨p, { e with
          script := rest
          trace := e.trace ++ List.replicate k (.read e.pinData .high) }⟩ := by
  intro k
  induction k with
  | zero =>
    intro e _ hs
    simp only [List.replicate_zero, List.nil_append] at hs
    subst hs
    simp [run_zero]
  | succ k ih =>
    intro e h hs
    refine run_cons (step_poll_high (rest := List.replicate k .high ++ rest) hc h ?_) ?_
    · rw [hs, List.replicate_succ, List.cons_append]
    · rw [ih _ (by exact h) rfl]
      simp [List.replicate_succ]

/-! ## The pulses of SELECT -/

theorem step_pulse {o : Owner p} (h : e.seq = .select .rise o) :
    step ⟨p, e⟩ = .next ⟨p, { e with
      clkOut := .high
      trace := e.trace ++ [.write e.pinClock .high]
      seq := .select .fall o }⟩ := by
  rw [step_of_busy (by simp [h])]
  simp [engineStep, h, selectStep, Engine.pinWrite, Engine.emit]

/-- `n + 1` pulses, then what follows SELECT (R124). -/
theorem run_pulses (o : Owner p) : ∀ (n : Nat) (e : Engine p), e.seq = .select .rise o →
    e.pcnt = n + 1 →
    run (2 * (n + 1)) ⟨p, e⟩ =
      lift (afterSelect o { e with
        pcnt := 0
        clkOut := .low
        trace := e.trace ++ pulseTrace e.pinClock (n + 1)
        seq := .select .fall o }) := by
  intro n
  induction n with
  | zero =>
    intro e h hp
    refine run_cons (step_pulse h) ?_
    rw [run_one, step_of_busy (by simp)]
    simp [engineStep, selectStep, pulseLoop, hp, Engine.pinWrite, Engine.emit, pulseTrace]
  | succ n ih =>
    intro e h hp
    have he : 2 * (n + 1 + 1) = (2 * (n + 1) + 1) + 1 := by omega
    rw [he]
    refine run_cons (step_pulse h) ?_
    refine run_cons (t := ⟨p, { e with
      pcnt := e.pcnt - 1
      clkOut := .low
      trace := e.trace ++ [.write e.pinClock .high] ++ [.write e.pinClock .low]
      seq := .select .rise o }⟩) ?_ ?_
    · rw [step_of_busy (by simp)]
      simp only [engineStep, selectStep]
      rw [pulseLoop_more (by show e.pcnt - 1 ≠ 0; omega)]
      simp [Engine.pinWrite, Engine.emit]
    · rw [ih _ rfl (by show e.pcnt - 1 = n + 1; omega)]
      simp [pulseTrace]

/-- SELECT from its wait: `k` failed polls, the successful one, `PCNT` pulses, then what follows (R125). -/
theorem run_select (o : Owner p) (k : Nat) (rest : List Level) (e : Engine p)
    (h : e.seq = .select .poll o) (hs : e.script = waitScript k ++ rest) :
    ∃ call, run (k + 1 + 2 * e.pcnt) ⟨p, e⟩ =
      lift (afterSelect o { e with
        script := rest
        pcnt := 0
        clkOut := if e.pcnt = 0 then e.clkOut else .low
        trace := e.trace ++ selectTrace e.pinData e.pinClock k e.pcnt
        seq := .select call o }) := by
  have hpoll := run_polls (.inl ⟨o, rfl⟩) (rest := .low :: rest) k e h (by
    rw [hs, waitScript, List.append_assoc]; rfl)
  have hlow : ∀ u : Engine p, u.seq = .select .poll o → u.script = .low :: rest →
      step ⟨p, u⟩ = lift (pulseLoop o (afterSelect o)
        { u with script := rest, trace := u.trace ++ [.read u.pinData .low] }) := by
    intro u hu hus
    rw [step_of_busy (by simp [hu]), ← Engine.pinRead_of_script u hus]
    simp only [engineStep, hu, selectStep]
    rw [waitReady_of_low _ (Engine.nextLevel_of_script u hus)]
  by_cases hp : e.pcnt = 0
  · refine ⟨.poll, ?_⟩
    rw [hp, Nat.mul_zero, Nat.add_zero]
    refine run_snoc hpoll ?_
    rw [hlow _ (by exact h) rfl, pulseLoop_zero (by exact hp)]
    simp [selectTrace, waitTrace, pulseTrace, hp, h]
  · refine ⟨.fall, ?_⟩
    obtain ⟨n, hn⟩ : ∃ n, e.pcnt = n + 1 := ⟨e.pcnt - 1, by omega⟩
    rw [hn]
    have hstep := run_snoc hpoll (hlow _ (by exact h) rfl)
    rw [pulseLoop_more (by exact hp)] at hstep
    rw [run_add _ _ _ hstep, run_pulses o n _ rfl (by exact hn)]
    simp [selectTrace, waitTrace]

/-! ## The slots of a frame -/

/-- The samples ORed in from bit `i` down (R122, R128). -/
def orLevels : Nat → List Level → p.Container → p.Container
  | _, [], acc => acc
  | i, l :: ls, acc => orLevels (i - 1) ls (orSample acc i l)

theorem step_sample {o : Owner p} {l : Level} {rest : List Level} (h : e.seq = .shiftIn .sample o)
    (hs : e.script = l :: rest) :
    step ⟨p, e⟩ = .next ⟨p, { e with
      script := rest
      acc := orSample e.acc e.bit.toNat l
      trace := e.trace ++ [.read e.pinData l]
      seq := .shiftIn .fall o }⟩ := by
  rw [step_of_busy (by simp [h])]
  simp only [engineStep, h, shiftInStep]
  rw [Engine.pinRead_of_script e hs, Engine.nextLevel_of_script e hs]
  rfl

/-- One sampled slot is three steps (R122). -/
theorem run_sample {o : Owner p} {l : Level} {rest : List Level} (h : e.seq = .shiftIn .rise o)
    (hs : e.script = l :: rest) :
    run 3 ⟨p, e⟩ = lift (afterSample o (afterShiftIn o) { e with
      script := rest
      acc := orSample e.acc e.bit.toNat l
      clkOut := .low
      trace := e.trace ++ [.write e.pinClock .high, .read e.pinData l, .write e.pinClock .low]
      seq := .shiftIn .fall o }) := by
  refine run_cons (t := ⟨p, { e with
    clkOut := .high
    trace := e.trace ++ [.write e.pinClock .high]
    seq := .shiftIn .sample o }⟩) ?_ ?_
  · rw [step_of_busy (by simp [h])]
    simp [engineStep, h, shiftInStep, Engine.pinWrite, Engine.emit]
  · refine run_cons (step_sample rfl hs) ?_
    rw [run_one, step_of_busy (by simp)]
    simp [engineStep, shiftInStep, Engine.pinWrite, Engine.emit]

/-- The sampled slots, from `BIT` down to the lowest sampled bit; the last of them is at its end (R127,
R128). -/
theorem run_samples (o : Owner p) (rest : List Level) : ∀ (b : List Level) (e : Engine p),
    e.seq = .shiftIn .rise o → e.bit.toNat + 1 = p.lowestBit + b.length → b ≠ [] →
    e.script = b ++ rest →
    ∃ x : BitVec 5, x.toNat = p.lowestBit ∧
    run (3 * b.length) ⟨p, e⟩ =
      lift (afterSample o (afterShiftIn o) { e with
        script := rest
        acc := orLevels e.bit.toNat b e.acc
        bit := x
        clkOut := .low
        trace := e.trace ++ sampleTrace e.pinData e.pinClock b
        seq := .shiftIn .fall o }) := by
  intro b
  induction b with
  | nil => intro _ _ _ h; exact absurd rfl h
  | cons l b ih =>
    intro e h hb _ hs
    have h3 := run_sample (rest := b ++ rest) h hs
    cases b with
    | nil =>
      refine ⟨e.bit, by simpa using hb, ?_⟩
      simpa [orLevels, sampleTrace] using h3
    | cons l' b' =>
      simp only [List.length_cons] at hb
      rw [afterSample_more (by show e.bit.toNat ≠ p.lowestBit; omega)] at h3
      have hsub : (e.bit - 1).toNat = e.bit.toNat - 1 := by
        have := e.bit.isLt
        rw [BitVec.toNat_sub]
        simp
        omega
      obtain ⟨x, hx, h4⟩ := ih { e with
          script := l' :: b' ++ rest
          acc := orSample e.acc e.bit.toNat l
          bit := e.bit - 1
          clkOut := .low
          trace := e.trace ++ [.write e.pinClock .high, .read e.pinData l, .write e.pinClock .low]
          seq := .shiftIn .rise o } rfl
        (by simp only [hsub, List.length_cons]; omega) (by simp) rfl
      refine ⟨x, hx, ?_⟩
      have hlen : 3 * (l :: l' :: b').length = 3 + 3 * (l' :: b').length := by
        simp only [List.length_cons]; omega
      rw [hlen, run_add _ 3 _ h3, h4]
      simp only [orLevels, sampleTrace, hsub, List.append_assoc, List.cons_append, List.nil_append]

/-- The slots without a sample, as many as `BIT` says, and the end of the frame (R129). -/
theorem run_plain (o : Owner p) : ∀ (n : Nat) (e : Engine p),
    e.seq = .shiftIn .plainRise o → e.bit.toNat = n + 1 →
    ∃ x : BitVec 5,
    run (2 * (n + 1)) ⟨p, e⟩ =
      lift (afterShiftIn o (Engine.takeSample { e with
        bit := x
        clkOut := .low
        trace := e.trace ++ pulseTrace e.pinClock (n + 1)
        seq := .shiftIn .plainFall o })) := by
  have hrise : ∀ e : Engine p, e.seq = .shiftIn .plainRise o →
      run 2 ⟨p, e⟩ = lift (afterPlain o (afterShiftIn o) { e with
        clkOut := .low
        trace := e.trace ++ [.write e.pinClock .high, .write e.pinClock .low]
        seq := .shiftIn .plainFall o }) := by
    intro e h
    refine run_cons (t := ⟨p, { e with
      clkOut := .high
      trace := e.trace ++ [.write e.pinClock .high]
      seq := .shiftIn .plainFall o }⟩) ?_ ?_
    · rw [step_of_busy (by simp [h])]
      simp [engineStep, h, shiftInStep, Engine.pinWrite, Engine.emit]
    · rw [run_one, step_of_busy (by simp)]
      simp [engineStep, shiftInStep, Engine.pinWrite, Engine.emit]
  intro n
  induction n with
  | zero =>
    intro e h hb
    refine ⟨e.bit, ?_⟩
    rw [Nat.zero_add, Nat.mul_one, hrise e h, afterPlain_end (by show e.bit.toNat ≤ 1; omega)]
    simp [pulseTrace]
  | succ n ih =>
    intro e h hb
    have h2 := hrise e h
    rw [afterPlain_more (by show ¬ e.bit.toNat ≤ 1; omega)] at h2
    have hsub : (e.bit - 1).toNat = n + 1 := by
      have := e.bit.isLt
      rw [BitVec.toNat_sub]
      simp
      omega
    obtain ⟨x, h4⟩ := ih { e with
        bit := e.bit - 1
        clkOut := .low
        trace := e.trace ++ [.write e.pinClock .high, .write e.pinClock .low]
        seq := .shiftIn .plainRise o } rfl hsub
    refine ⟨x, ?_⟩
    have hlen : 2 * (n + 1 + 1) = 2 + 2 * (n + 1) := by omega
    rw [hlen, run_add _ 2 _ h2, h4]
    simp [pulseTrace]

/-- A frame from its first slot: the sampled slots, those without a sample, then what follows the
sample (R90, R127 to R130). -/
theorem run_frame (o : Owner p) (b rest : List Level) (e : Engine p) (hb : b.length = p.sampledBits)
    (h : e.seq = .shiftIn .rise o) (hbit : e.bit.toNat = p.sampleBits - 1)
    (hs : e.script = b ++ rest) :
    ∃ (x : BitVec 5) (call : ShiftInCall),
    run (frameEvents p) ⟨p, e⟩ =
      lift (afterShiftIn o (Engine.takeSample { e with
        script := rest
        acc := orLevels (p.sampleBits - 1) b e.acc
        bit := x
        clkOut := .low
        trace := e.trace ++ sampleTrace e.pinData e.pinClock b ++ pulseTrace e.pinClock p.lowestBit
        seq := .shiftIn call o })) := by
  have hp := p.sampledSlots
  have hl : p.lowestBit = p.sampleBits - p.sampledBits := rfl
  have hne : b ≠ [] := by
    intro h0
    rw [h0] at hb
    simp at hb
    omega
  obtain ⟨x, hx, h1⟩ := run_samples o rest b e h (by omega) hne hs
  rw [hb] at h1
  rw [hbit] at h1
  by_cases h0 : p.lowestBit = 0
  · rw [afterSample_end (by exact hx) h0] at h1
    refine ⟨x, .fall, ?_⟩
    rw [frameEvents, h0, Nat.mul_zero, Nat.add_zero, h1]
    simp [pulseTrace]
  · rw [afterSample_plain (by exact hx) h0] at h1
    obtain ⟨n, hn⟩ : ∃ n, p.lowestBit = n + 1 := ⟨p.lowestBit - 1, by omega⟩
    obtain ⟨y, h2⟩ := run_plain o n { e with
      script := rest
      acc := orLevels (p.sampleBits - 1) b e.acc
      bit := x
      clkOut := .low
      trace := e.trace ++ sampleTrace e.pinData e.pinClock b
      seq := .shiftIn .plainRise o } rfl (hx.trans hn)
    refine ⟨y, .plainFall, ?_⟩
    rw [frameEvents, hn, run_add _ _ _ h1, h2]

end Sys2Proof.Machine
end

