-- ==== Sys2Proof/Laws/Sample.lean ====
section
/-! SUPPORT. The number a frame encodes: what the ORs of SHIFTIN and its sign extension come to. -/

namespace Sys2Proof.Machine

variable {p : Params}

/-- The sample fits below the sign bit of its container (R91, R155). -/
theorem sampleBits_lt_accW (p : Params) : p.sampleBits < p.accW := by
  have := p.resultFits
  omega

theorem one_le_sampleBits (p : Params) : 1 ≤ p.sampleBits := by
  have := p.sampledSlots
  omega

/-- The slots without a sample and those with one make up the frame (R90). -/
theorem lowestBit_add (p : Params) : p.lowestBit + p.sampledBits = p.sampleBits := by
  have := p.sampledSlots
  simp only [Params.lowestBit]
  omega

theorem levelsNat_lt (b : List Level) : levelsNat b < 2 ^ b.length := by
  induction b with
  | nil => simp [levelsNat]
  | cons l ls ih =>
    have : l.bit ≤ 1 := by cases l <;> decide
    simp only [levelsNat, List.length_cons, pow_succ]
    nlinarith [Nat.two_pow_pos ls.length]

/-- ORing a sample into a bit below the lowest set one adds its weight (R122, R131). -/
theorem orSample_toNat {acc : p.Container} {i : Nat} (l : Level) (hi : i < p.accW)
    (h : 2 ^ (i + 1) ∣ acc.toNat) : (orSample acc i l).toNat = acc.toNat + l.bit * 2 ^ i := by
  cases l with
  | low => simp [orSample, Level.bit]
  | high =>
    obtain ⟨a, ha⟩ := h
    have hb : 2 ^ i < 2 ^ (i + 1) := Nat.pow_lt_pow_right (by decide) (by omega)
    have h1 : (BitVec.ofNat p.accW (2 ^ i)).toNat = 2 ^ i := by
      rw [BitVec.toNat_ofNat]
      exact Nat.mod_eq_of_lt (Nat.pow_lt_pow_right (by decide) hi)
    simp only [orSample, BitVec.toNat_or, h1, ha, Level.bit, Nat.one_mul]
    exact (Nat.two_pow_add_eq_or_of_lt hb a).symm

/-- The samples from bit `i` down to bit `low` add up to their number, shifted: the bits below `low` are
never set (R128, R131). -/
theorem orLevels_toNat {low : Nat} : ∀ (b : List Level) (i : Nat) (acc : p.Container),
    i + 1 = low + b.length → i < p.accW → 2 ^ (i + 1) ∣ acc.toNat →
    (orLevels i b acc).toNat = acc.toNat + 2 ^ low * levelsNat b := by
  intro b
  induction b with
  | nil => simp [orLevels, levelsNat]
  | cons l ls ih =>
    intro i acc hb hi h
    have h1 := orSample_toNat l hi h
    simp only [List.length_cons] at hb
    have hil : i = low + ls.length := by omega
    have hw : (orLevels i (l :: ls) acc).toNat =
        (orSample acc i l).toNat + 2 ^ low * levelsNat ls := by
      cases ls with
      | nil => simp [orLevels, levelsNat]
      | cons l' ls' =>
        simp only [List.length_cons] at hil ih
        refine ih (i - 1) _ (by omega) (by omega) ?_
        rw [h1, show i - 1 + 1 = i by omega]
        exact Dvd.dvd.add (dvd_trans (pow_dvd_pow 2 (by omega)) h) (Dvd.intro_left _ rfl)
    rw [hw, h1, levelsNat, hil, pow_add]
    ring

/-- Sign extension from the sign bit is that of a pattern (R130). -/
theorem signExtend_zeroExtend (b : p.Pattern) : signExtend (b.setWidth p.accW) = sext b := by
  have hp := sampleBits_lt_accW p
  have hmsb : b.msb = b.getLsbD (p.sampleBits - 1) := BitVec.msb_eq_getLsbD_last b
  have hsign : (b.setWidth p.accW).getLsbD (p.sampleBits - 1) = b.getLsbD (p.sampleBits - 1) := by
    rw [BitVec.getLsbD_setWidth, decide_eq_true (by omega), Bool.true_and]
  unfold signExtend sext
  apply BitVec.eq_of_getLsbD_eq
  intro i hi
  rw [BitVec.getLsbD_signExtend, hmsb, hsign]
  cases h : b.getLsbD (p.sampleBits - 1) <;> by_cases hs : i < p.sampleBits
  · simp [hi, hs]
  · simp [hi, hs, BitVec.getLsbD_of_ge b i (by omega)]
  · simp [hi, hs]
  · simp [hi, hs]

/-- The word SHIFTIN puts into `RESULT` for the levels it sampled (R130, R135). -/
theorem signExtend_orLevels (b : List Level) (hb : b.length = p.sampledBits) :
    signExtend (orLevels (p.sampleBits - 1) b (0#p.accW : p.Container)) = sext (samplePattern p b) := by
  have hs := one_le_sampleBits p
  have hl := lowestBit_add p
  have ha := sampleBits_lt_accW p
  rw [← signExtend_zeroExtend]
  congr 1
  apply BitVec.eq_of_toNat_eq
  rw [orLevels_toNat (low := p.lowestBit) b _ _ (by omega) (by omega) (by simp)]
  have hlt : 2 ^ p.lowestBit * levelsNat b < 2 ^ p.sampleBits := by
    have := levelsNat_lt b
    rw [← hl, pow_add, ← hb]
    exact Nat.mul_lt_mul_of_pos_left this (Nat.two_pow_pos _)
  have hlt' : 2 ^ p.lowestBit * levelsNat b < 2 ^ p.accW :=
    hlt.trans (Nat.pow_lt_pow_right (by decide) ha)
  simp [samplePattern, Nat.mod_eq_of_lt hlt, Nat.mod_eq_of_lt hlt']

end Sys2Proof.Machine
end

