-- ==== Sys2Proof/Laws/Operation.lean ====
section
/-! SUPPORT. What SHIFTIN and READRAW do from their first wait to the last call of their last pulse,
whatever follows. -/

namespace Sys2Proof.Machine

variable {p : Params}

theorem step_poll_shiftIn {e : Engine p} {o : Owner p} {rest : List Level}
    (h : e.seq = .shiftIn .poll o) (hs : e.script = .low :: rest) :
    step ⟨p, e⟩ = .next ⟨p, Engine.clearAcc o { e with
      script := rest
      trace := e.trace ++ [.read e.pinData .low] }⟩ := by
  rw [step_of_busy (by simp [h])]
  simp only [engineStep, h, shiftInStep]
  rw [waitReady_of_low _ (Engine.nextLevel_of_script e hs), Engine.pinRead_of_script e hs]
  rfl

/-- SHIFTIN from its wait: `k + 1` polls and a frame, then what follows the sample (R127, R132). -/
theorem run_shiftIn (o : Owner p) (k : Nat) (b rest : List Level) (hb : b.length = p.sampledBits)
    (e : Engine p) (h : e.seq = .shiftIn .poll o) (hs : e.script = waitScript k ++ (b ++ rest)) :
    ∃ (x : BitVec 5) (call : ShiftInCall),
    run (k + 1 + frameEvents p) ⟨p, e⟩ = lift (afterShiftIn o { e with
      script := rest
      trace := e.trace ++ shiftInTrace e.pinData e.pinClock k b
      acc := sext (samplePattern p b)
      result := sext (samplePattern p b)
      bit := x
      clkOut := .low
      seq := .shiftIn call o }) := by
  have hpoll := run_polls (.inr ⟨o, rfl⟩) (rest := .low :: (b ++ rest)) k e h (by
    rw [hs, waitScript, List.append_assoc]; rfl)
  have hready := run_snoc hpoll (step_poll_shiftIn (by exact h) rfl)
  have hbit : (BitVec.ofNat 5 (p.sampleBits - 1)).toNat = p.sampleBits - 1 := by
    have := p.slotIndex
    have := one_le_sampleBits p
    rw [BitVec.toNat_ofNat]
    omega
  obtain ⟨x, call, hframe⟩ := run_frame o b rest (Engine.clearAcc o { e with
      script := b ++ rest
      trace := e.trace ++ List.replicate k (.read e.pinData .high) ++ [.read e.pinData .low] })
    hb rfl hbit rfl
  refine ⟨x, call, ?_⟩
  rw [run_add _ _ _ hready, hframe]
  simp [Engine.takeSample, Engine.clearAcc, signExtend_orLevels b hb, shiftInTrace, waitTrace]

/-- READRAW from its first wait, inlined in any of the operations composed of it (R150, R151). -/
theorem run_reading (o : Owner p) (ho : o ≠ .alone) (r : Reading) (hr : r.Full p) (rest : List Level)
    (e : Engine p) (h : e.seq = .select .poll o) (hs : e.script = r.script ++ rest) :
    ∃ (x : BitVec 5) (call : ShiftInCall),
    run (r.events p e.pcnt) ⟨p, e⟩ = lift (afterShiftIn o { e with
      script := rest
      trace := e.trace ++ r.trace e.pinData e.pinClock e.pcnt
      pcnt := 0
      acc := sext (samplePattern p r.bits)
      result := sext (samplePattern p r.bits)
      bit := x
      clkOut := .low
      seq := .shiftIn call o }) := by
  obtain ⟨call, hsel⟩ := run_select o r.polls₁ (waitScript r.polls₂ ++ (r.bits ++ rest)) e h (by
    rw [hs, Reading.script]; simp only [List.append_assoc])
  have hafter : ∀ u : Engine p, afterSelect o u = .next (u.beginShiftIn o) := by
    intro u
    cases o <;> first | exact absurd rfl ho | rfl
  rw [hafter] at hsel
  obtain ⟨x, call', hshift⟩ := run_shiftIn o r.polls₂ r.bits rest hr (Engine.beginShiftIn o { e with
      script := waitScript r.polls₂ ++ (r.bits ++ rest)
      pcnt := 0
      clkOut := if e.pcnt = 0 then e.clkOut else .low
      trace := e.trace ++ selectTrace e.pinData e.pinClock r.polls₁ e.pcnt
      seq := .select call o }) rfl rfl
  refine ⟨x, call', ?_⟩
  rw [Reading.events, run_add _ _ _ hsel, hshift]
  simp [Engine.beginShiftIn, Reading.trace, readTrace]

end Sys2Proof.Machine
end

