-- ==== Sys2Proof/Laws/PerInstr.lean ====
section
/-! SUPPORT. One lemma for each command: its word carries the opcode of its row of R103. -/

namespace Sys2Proof

/-- The opcode of each command (R103). -/
def Instr.opcode : Instr → Nat
  | .construct _ _ => 0x1
  | .teardown => 0x2
  | .setGain _ _ => 0x3
  | .select _ => 0x4
  | .shiftIn _ => 0x5
  | .readRaw _ => 0x6
  | .readCal _ => 0x7
  | .calibrate _ _ => 0x8
  | .avgRead _ _ => 0x9

end Sys2Proof

namespace Sys2Proof.Laws.EncodesItsRow

/-- The word of a well-formed command has its row's opcode, which is an assigned one, whatever the
parameters (R103, R104). -/
def Statement (i : Instr) : Prop :=
  ∀ p : Params, i.WellFormed p →
    (encode p i).opcode = i.opcode ∧ (encode p i).opcodeAssigned = true

theorem of_word {i : Instr} (h : ∀ p : Params, i.WellFormed p →
    ∃ below, below < 2 ^ 28 ∧ encode p i = wordOf i.opcode below) : Statement i := by
  intro p hi
  obtain ⟨below, hb, he⟩ := h p hi
  have ho : 1 ≤ i.opcode ∧ i.opcode ≤ 9 := by cases i <;> simp [Instr.opcode]
  have hop : (encode p i).opcode = i.opcode := by
    rw [Word.opcode, he, wordOf_toNat (by omega) hb, above_low hb]
  exact ⟨hop, by simp [Word.opcodeAssigned, hop, ho]⟩

theorem of_channel {i : Instr} (ch : Channel) (h : ∀ p : Params, i.WellFormed p →
    ∃ below, below < 2 ^ 27 ∧ encode p i = wordCh i.opcode ch below) : Statement i := by
  refine of_word fun p hi => ?_
  obtain ⟨below, hb, he⟩ := h p hi
  exact ⟨_, by have := ch.code.isLt; omega, he⟩

theorem construct (dpin cpin : Nat) : Statement (.construct dpin cpin) := by
  refine of_word fun p hi => ?_
  obtain ⟨hd, hc⟩ := Instr.wellFormed_construct.1 hi
  refine ⟨_, ?_, rfl⟩
  have h2 : 2 ^ p.pinField * 2 ^ p.pinField ≤ 2 ^ 28 := by
    rw [← pow_add]
    exact Nat.pow_le_pow_right (by decide) (by have := p.pinField_le; omega)
  nlinarith

theorem teardown : Statement .teardown := of_word fun _ _ => ⟨0, by decide, rfl⟩

theorem setGain (ch : Channel) (g : GainSetting) : Statement (.setGain ch g) :=
  of_channel ch fun _ _ => ⟨_, by have := g.code.isLt; omega, rfl⟩

theorem select (ch : Channel) : Statement (.select ch) :=
  of_channel ch fun _ _ => ⟨0, by decide, rfl⟩

theorem shiftIn (ch : Channel) : Statement (.shiftIn ch) :=
  of_channel ch fun _ _ => ⟨0, by decide, rfl⟩

theorem readRaw (ch : Channel) : Statement (.readRaw ch) :=
  of_channel ch fun _ _ => ⟨0, by decide, rfl⟩

theorem readCal (ch : Channel) : Statement (.readCal ch) :=
  of_channel ch fun _ _ => ⟨0, by decide, rfl⟩

theorem count_lt_field {p : Params} {n : Nat} (h : n < 2 ^ p.countField) : n < 2 ^ 27 :=
  h.trans_le (Nat.pow_le_pow_right (by decide) p.countField_le)

theorem calibrate (ch : Channel) (n : Nat) : Statement (.calibrate ch n) :=
  of_channel ch fun _ hi => ⟨n, count_lt_field (Instr.wellFormed_calibrate.1 hi), rfl⟩

theorem avgRead (ch : Channel) (n : Nat) : Statement (.avgRead ch n) :=
  of_channel ch fun _ hi => ⟨n, count_lt_field (Instr.wellFormed_avgRead.1 hi), rfl⟩

end Sys2Proof.Laws.EncodesItsRow
end

