-- ==== Sys2Proof/Tests/Slice0.lean ====
section
/-! SUPPORT. Tests. Expected results stand in spec 95 (the vector is named) or are worked out by hand from
the rule that is named. Then, for each obligation with hypotheses, a state and operands that meet them. -/

namespace Sys2Proof.Tests

open Sys2Proof Sys2Proof.Machine

/-! ## States the tests start from -/

/-- The default parameters. -/
abbrev std : Params := Params.literal

/-- What `CONSTRUCT 2, 3` leaves, with the default parameters (95 V-LC-1). -/
def live : Engine std :=
  { Engine.powerOn std with
    life := .live, pinData := 2, pinClock := 3, gainB := .g32, dirClock := .output }

/-- The same before any CONSTRUCT. -/
def unbuilt : Engine std := Engine.powerOn std

/-- One step of the machine with the default parameters. -/
def stepped (e : Engine std) : Result := step ⟨std, e⟩

/-- One command of it. -/
def issued (i : Instr) (e : Engine std) : Result := exec i ⟨std, e⟩

/-- The next state of it. -/
def next (e : Engine std) : Result := .next ⟨std, e⟩

/-- LIVE and inside an operation, with ENV's next answers. -/
def inside (seq : Seq std) (script : List Level) : Engine std :=
  { live with seq := seq, script := script }

/-- Before the last call of a SHIFTIN that has the pattern in `ACC`. -/
def lastCall (owner : Owner std) (acc : BitVec 32) : Engine std :=
  { live with seq := .shiftIn .plainFall owner, clkOut := .high, acc := acc, bit := 1 }

/-- The part of the next state that a test looks at. -/
def after {α : Type} (r : Result) (f : Engine std → α) : Option α :=
  match r with
  | .next t => if h : t.params = std then some (f (h ▸ t.engine)) else none
  | .fault _ | .refused _ => none

/-- Parameters under which every bit of a frame is sampled. -/
def everyBit : Params := { std with sampledBits := 24, sampledSlots := by decide }

/-- Parameters other than the defaults in every width: 20-bit samples of which 18 are sampled, a 40-bit
container, 10-bit pins, 12-bit counts. -/
def wide : Params where
  sampleBits := 20
  sampledBits := 18
  accW := 40
  sumW := 48
  pulses128 := 300
  pulses64 := 3
  pulses32 := 2
  gainAReset := .g64
  resetDelayUs := 250
  defaultCount := 8
  pinW := 10
  cntW := 12
  fracBits := 9
  avgRound := .nearestEven
  sampledSlots := by decide
  slotIndex := by decide
  exactScale := by decide
  resultFits := by decide
  sumFits := by decide
  fsumFits := by decide
  countFits := by decide

/-- A read whose two waits are satisfied at once. -/
def reading (bits : List Level) : Reading := { polls₁ := 0, polls₂ := 0, bits := bits }

/-- Twenty-three samples of 0. -/
def zeros : List Level := List.replicate 23 .low

/-! ## Well-formed words (30 R104) -/

/-- V-DEC-12: opcode 0 fails the opcode check, and only that. -/
theorem test_illformed_opcode : Word.opcodeAssigned 0x00000000 = false ∧
    Word.reservedClear std 0x00000000 = true ∧ Word.legal std 0x00000000 = false := by decide

/-- V-DEC-16: bit 24 set in format G fails the zero-bit check, and only that. -/
theorem test_illformed_bits : Word.reservedClear std 0x31000000 = false ∧
    Word.opcodeAssigned 0x31000000 = true ∧ Word.gainCodeAssigned 0x31000000 = true ∧
    Word.legal std 0x31000000 = false := by decide

/-- V-DEC-15: `g = 0b11` fails the gain check, and only that. -/
theorem test_illformed_gain : Word.gainCodeAssigned 0x36000000 = false ∧
    Word.opcodeAssigned 0x36000000 = true ∧ Word.reservedClear std 0x36000000 = true ∧
    Word.legal std 0x36000000 = false := by decide

/-- The nearest legal words of V-DEC-15, 16, 17, 19, 20. -/
theorem test_wellformed_nearest : Word.legal std 0x34000000 = true ∧ Word.legal std 0x30000000 = true ∧
    Word.legal std 0x40000000 = true ∧ Word.legal std 0x10000203 = true ∧
    Word.legal std 0x80000004 = true := by
  decide

/-- R102: an operand too large for its field makes a command ill-formed; the largest that fits does not
(V-DEC-10). -/
theorem test_illformed_operands : ¬ (Instr.calibrate .a 65536).WellFormed std ∧
    ¬ (Instr.avgRead .b 65536).WellFormed std ∧
    ¬ (Instr.construct 256 3).WellFormed std ∧
    ¬ (Instr.construct 2 256).WellFormed std ∧
    (Instr.avgRead .b 65535).WellFormed std := by
  refine ⟨?_, ?_, ?_, ?_, ?_⟩ <;> simp [Instr.WellFormed, Instr.fields] <;> decide

/-- An operand too large for its field is refused at assembly (U7); the largest that fits is not. -/
theorem test_assembler_refuses_large :
    assemble std "CALIBRATE A, 65536".toList = none ∧ assemble std "CONSTRUCT 256, 3".toList = none ∧
    assemble std "AVGREAD B, 65535".toList = some (.avgRead .b 65535) := by decide

/-- R107: decimal and hexadecimal numbers, `A` or `B`, `128`, `64` or `32`, and nothing else. -/
theorem test_assembler_operands :
    assemble std "CONSTRUCT 0x0A, 3".toList = some (.construct 10 3) ∧
    assemble std "SETGAIN A, 64".toList = some (.setGain .a .g64) ∧
    assemble std "SETGAIN A, 16".toList = none ∧ assemble std "SELECT C".toList = none ∧
    assemble std "HALT".toList = none := by decide

/-! ## Decoding: words written out from the formats (30 R101, R103; 95 V-DEC) -/

/-- V-DEC-1: format P, `0001 0000 0000 0000 dddddddd cccccccc`. -/
theorem test_decode_construct :
    decode std 0b0001_0000_0000_0000_00000010_00000011#32 = .ok (.construct 2 3) := by decide

/-- V-DEC-2: format Z. -/
theorem test_decode_teardown :
    decode std 0b0010_0000000000000000000000000000#32 = .ok .teardown := by decide

/-- V-DEC-3, V-DEC-4: format G, `0011 c gg` and 25 zeros. -/
theorem test_decode_setGain :
    decode std 0b0011_0_01_0000000000000000000000000#32 = .ok (.setGain .a .g64) ∧
    decode std 0b0011_1_10_0000000000000000000000000#32 = .ok (.setGain .b .g32) := by decide

/-- V-DEC-5: format C, the opcode, `c` and 27 zeros. -/
theorem test_decode_select :
    decode std 0b0100_1_000000000000000000000000000#32 = .ok (.select .b) := by decide

/-- V-DEC-6. -/
theorem test_decode_shiftIn :
    decode std 0b0101_0_000000000000000000000000000#32 = .ok (.shiftIn .a) := by decide

/-- V-DEC-7. -/
theorem test_decode_readRaw :
    decode std 0b0110_1_000000000000000000000000000#32 = .ok (.readRaw .b) := by decide

/-- V-DEC-8. -/
theorem test_decode_readCal :
    decode std 0b0111_0_000000000000000000000000000#32 = .ok (.readCal .a) := by decide

/-- V-DEC-9, V-DEC-11: format N, the opcode, `c`, 11 zeros and the count. -/
theorem test_decode_calibrate :
    decode std 0b1000_0_00000000000_0000000000010000#32 = .ok (.calibrate .a 16) ∧
    decode std 0b1000_0_00000000000_0000000000000000#32 = .ok (.calibrate .a 0) := by decide

/-- V-DEC-10. -/
theorem test_decode_avgRead :
    decode std 0b1001_1_00000000000_1111111111111111#32 = .ok (.avgRead .b 65535) := by decide

/-- V-DEC-12 to V-DEC-20: each illegal word, by its ground. -/
theorem test_decode_illegal :
    decode std 0x00000000 = .error .reservedOpcode ∧ decode std 0xFFFFFFFF = .error .reservedOpcode ∧
    decode std 0xA0000000 = .error .reservedOpcode ∧ decode std 0x36000000 = .error .reservedGain ∧
    decode std 0x31000000 = .error .reservedBits ∧ decode std 0x40000001 = .error .reservedBits ∧
    decode std 0x20000001 = .error .reservedBits ∧ decode std 0x10010203 = .error .reservedBits ∧
    decode std 0x80010004 = .error .reservedBits := by decide

/-- The encoder gives the words R107 writes beside its examples. -/
theorem test_encode_examples : encode std (.construct 2 3) = 0x10000203 ∧ encode std .teardown = 0x20000000 ∧
    encode std (.setGain .b .g64) = 0x3A000000 ∧ encode std (.select .b) = 0x48000000 ∧
    encode std (.shiftIn .b) = 0x58000000 ∧ encode std (.readRaw .b) = 0x68000000 ∧
    encode std (.readCal .a) = 0x70000000 ∧ encode std (.calibrate .b 16) = 0x88000010 ∧
    encode std (.avgRead .a 4) = 0x90000004 := by decide

/-- A row's word reaches the decoder and the next step (log 4). -/
theorem test_table_word : decodeTableWord 32 0x10000203 = some (.construct 2 3) ∧
    after (step (State.withFetchWord State.reset 32 0x10000203)) (fun t => (t.pinData, t.pinClock, t.seq)) =
      some (2, 3, .construct .dirData) := by decide

/-- Every row's word runs as the very next command: CONSTRUCT from power-on, the others once LIVE (60
R196); from power-on the others are refused for the lifecycle and for nothing else. -/
theorem test_every_row_runs :
    (after (step (State.withFetchWord State.reset 32 0x10000203)) (·.seq)).isSome = true ∧
    ([0x20000000, 0x30000000, 0x40000000, 0x50000000, 0x60000000, 0x70000000, 0x80000010,
      0x90000010].map fun w => (after (step (State.withFetchWord ⟨std, live⟩ 32 w)) (·.seq)).isSome) =
      List.replicate 8 true ∧
    step (State.withFetchWord State.reset 32 0x40000000) = .refused .wrongLifecycle :=
  ⟨by decide, by decide, rfl⟩

/-! ## One step of each command -/

/-- V-LC-1: the last call of CONSTRUCT leaves the reset values. -/
theorem test_construct_end :
    after (stepped { unbuilt with
      seq := .construct .fall, offsetA := 250, gainA := .g64, clkOut := .high })
      (fun t => (t.life, t.gainA, t.gainB, t.offsetA, t.clkOut, t.seq)) =
      some (.live, .g128, .g32, 0, .low, .idle) := by decide

/-- V-LC-7, V-LC-5: equal pins, and CONSTRUCT while LIVE. -/
theorem test_construct_refused : issued (.construct 3 3) unbuilt = .refused .samePin ∧
    issued (.construct 2 3) live = .refused .wrongLifecycle := by
  and_intros <;> first | decide | rfl

/-- V-LC-2: the second event is `C(3, 0)`, and the engine is DEAD. -/
theorem test_teardown_end :
    after (stepped (inside (.teardown .dirClock) [])) (fun t => (t.trace, t.life, t.dirClock, t.seq)) =
      some ([.dir 3 .input], .dead, .input, .idle) := by decide

/-- V-LC-8: TEARDOWN before any CONSTRUCT. -/
theorem test_teardown_refused : issued .teardown unbuilt = .refused .wrongLifecycle := rfl

/-- V-SG-1, V-SG-3: 64 is stored for A, 32 is not. -/
theorem test_setGain_a : issued (.setGain .a .g64) live = next { live with gainA := .g64 } ∧
    issued (.setGain .a .g32) { live with gainA := .g64 } = next { live with gainA := .g64 } := by
  and_intros <;> first | decide | rfl

/-- V-SG-4, V-SG-5: B keeps 32. -/
theorem test_setGain_b : issued (.setGain .b .g128) live = next live ∧
    issued (.setGain .b .g64) live = next live := by
  and_intros <;> first | decide | rfl

/-- V-SEL-2, V-SEL-3: the pulses that will follow the wait; B counts 32 whatever A's gain. -/
theorem test_select_count :
    after (issued (.select .a) { live with gainA := .g64 }) (·.pcnt) = some 64 ∧
    after (issued (.select .b) { live with gainA := .g64 }) (·.pcnt) = some 32 := by decide

/-- R124: the falling edge of the last pulse ends SELECT, that of an earlier one does not. -/
theorem test_select_end :
    after (stepped { inside (.select .fall .alone) [] with pcnt := 1 }) (fun t => (t.seq, t.trace)) =
      some (.idle, [.write 3 .low]) ∧
    after (stepped { inside (.select .fall .alone) [] with pcnt := 2 }) (fun t => (t.seq, t.pcnt)) =
      some (.select .rise .alone, 1) := by decide

/-- R122, R128: a HIGH sample at bit 23 sets that bit, on the way to the falling edge. -/
theorem test_shiftIn_sample :
    after (stepped { inside (.shiftIn .sample .alone) [.high] with bit := 23 })
      (fun t => (t.acc, t.seq, t.trace)) =
      some (0x00800000, .shiftIn .fall .alone, [.read 2 .high]) := by decide

/-- V-SH-10, V-SH-12: the pattern with bit 23 set is sign-extended, the one with bit 22 is not. -/
theorem test_shiftIn_result :
    after (stepped (lastCall .alone 0x00ABCDEE)) (·.result) = some 0xFFABCDEE ∧
    after (stepped (lastCall .alone 0x00400000)) (·.result) = some 0x00400000 := by decide

/-- R150, R134: after the selection pulses READRAW waits again, and its end keeps the raw sample. -/
theorem test_readRaw :
    after (stepped { inside (.select .fall (.readRaw .b)) [] with pcnt := 1 }) (·.seq) =
      some (.shiftIn .poll (.readRaw .b)) ∧
    after (stepped (lastCall (.readRaw .b) 4)) (fun t => (t.result, t.seq)) = some (4, .idle) := by decide

/-- V-RC-1, V-RC-13: divisor 64 with offset 100; B reads its own offset. -/
theorem test_readCal :
    after (stepped { lastCall (.readCal .a) 164 with gainA := .g64, offsetA := 100 }) (·.result) =
      some 0x00000080 ∧
    after (stepped { lastCall (.readCal .b) 64 with offsetA := 999 }) (·.result) = some 0x00000100 := by
  decide

/-- V-RC-14, V-RC-6: refused outside the invariant; the nearest accepted case. -/
theorem test_readCal_overflow :
    stepped { lastCall (.readCal .a) 0 with gainA := .g32, offsetA := 0x40000000 } =
      .refused .resultOverflow ∧
    after (stepped { lastCall (.readCal .a) 0x800000 with gainA := .g32, offsetA := 8388606 }) (·.result) =
      some 0x80000100 := by
  and_intros <;> first | decide | rfl

/-- V-CAL-3: -2, -2 summed, then -4: the mean of -8 by 3 is -2, into B's offset alone; `RESULT` is the
raw sample. -/
theorem test_calibrate_end :
    after (stepped { lastCall (.calibrate .b 3) 0xFFFFFC with sum := -4, cnt := 1, offsetA := 7 })
      (fun t => (t.offsetB, t.offsetA, t.result, t.seq)) =
      some (0xFFFFFFFE, 7, 0xFFFFFFFC, .idle) := by decide

/-- V-CAL-10, V-AVG-8: a count of 0. -/
theorem test_count_zero : issued (.calibrate .a 0) live = .fault .divideByZero ∧
    issued (.avgRead .a 0) live = .fault .divideByZero := by
  and_intros <;> first | decide | rfl

/-- V-AVG-7: -10 by 3, on the grid of 1/128, toward zero. -/
theorem test_avgRead_end :
    after (stepped { lastCall (.avgRead .a 3) 0xFFFFFC with fsum := -6, cnt := 1 })
      (fun t => (t.result, t.seq)) = some (0xFFFFFFFD, .idle) := by decide

/-- V-AVG-1: before the last of four reads the loop goes on with another SELECT. -/
theorem test_avgRead_loop :
    after (stepped { lastCall (.avgRead .a 4) 300 with gainA := .g32, fsum := 38400, cnt := 2 })
      (fun t => (t.fsum, t.cnt, t.pcnt, t.seq)) =
      some (76800, 1, 32, .select .poll (.avgRead .a 4)) := by decide

/-- R171: by hand, -7 by 2 is -3.5 and 5 by 2 is 2.5. -/
theorem test_rounding_modes : roundDiv .towardZero (-7) 2 = -3 ∧ roundDiv .towardNegative (-7) 2 = -4 ∧
    roundDiv .towardPositive (-7) 2 = -3 ∧ roundDiv .nearestEven (-7) 2 = -4 ∧
    roundDiv .towardPositive 5 2 = 3 ∧ roundDiv .nearestEven 5 2 = 2 := by decide

/-- V-SH-5, V-SH-10: bit 0 is never sampled. -/
theorem test_decode_levels : decodeLevels std (patternLevels (p := std) 0xFFFFFF) = -2 ∧
    decodeLevels std (patternLevels (p := std) 0xABCDEF) = -5517842 := by decide

/-- 30 R94, profile EXTRA: one, three and two selection pulses. -/
theorem test_profile_extra : pulses Params.extra .g128 = 1 ∧ pulses Params.extra .g64 = 3 ∧
    pulses Params.extra .g32 = 2 := by decide

/-- R5: the parameters are arguments. By hand: a table entry above 255 is a count of pulses (D1); the
delay and the gain after CONSTRUCT; 512 by 64; two pin fields of 10 bits; the assembler's count. -/
theorem test_parameters :
    (pulses wide .g128 = 300 ∧ scale wide .a .g64 = 8 ∧ wide.lowestBit = 2) ∧
    encode wide (.construct 1023 1) = 0x100FFC01 ∧
    decode wide 0x100FFC01 = .ok (.construct 1023 1) ∧ decode wide 0x80001000 = .error .reservedBits ∧
    assemble wide "AVGREAD A".toList = some (.avgRead .a 8) := by decide

/-- R90, R128: with every bit sampled bit 0 counts too, and no pulse follows; with two bits not sampled
two pulses follow. -/
theorem test_parameters_frame :
    decodeLevels everyBit (patternLevels (p := everyBit) 0xFFFFFF) = -1 ∧ frameEvents everyBit = 72 ∧
    decodeLevels wide (patternLevels (p := wide) 0xFFFFF) = -4 ∧ frameEvents wide = 58 := by decide

/-- Log 23: a sum at the top of `FSUM` still counts; one more step of the grid, and its value is free. -/
theorem test_fsum_overflow :
    (Engine.addCal { live with fsum := 0x7FFFFFFFFFFFFFFE, result := 1 }).fsum = 0x7FFFFFFFFFFFFFFF ∧
    (Engine.addCal { live with fsum := 0x7FFFFFFFFFFFFFFF, result := 1 }).fsum =
      Config.overflowed 64 (2 ^ 63) := ⟨by decide, rfl⟩

/-- R16: HOST reads `RESULT` only between operations. -/
theorem test_host_reads : Engine.hostReads { live with result := 5 } = some 5 ∧
    (inside (.select .poll .alone) []).hostReads = none := by decide

/-! ## Witnesses: what the hypotheses of each obligation ask can be met -/

theorem live_configured : Configured live where
  gainB := rfl
  gainA := fun _ => rfl
  offsetA := by unfold RawRange; decide
  offsetB := by unfold RawRange; decide
  pins := by decide
  dirData := rfl
  dirClock := rfl

theorem live_inv : live.Inv := ⟨live_configured, rfl⟩

/-- The other two cases of `IdleInv`. -/
theorem witness_idle_inv : unbuilt.Inv ∧
    Engine.Inv { unbuilt with life := .dead } := ⟨trivial, rfl, rfl, rfl⟩

theorem witness_DecodeOfEncode : (Instr.construct 255 0).WellFormed std ∧
    (Instr.avgRead .b 65535).WellFormed std ∧
    (Instr.setGain .b .g32).WellFormed std := by
  refine ⟨?_, ?_, ?_⟩ <;> simp [Instr.WellFormed, Instr.fields] <;> decide

theorem witness_EncodeOfDecode : decode std 0x9800FFFF = .ok (.avgRead .b 65535) := by decide

/-- A word for each clause, at the ends of the opcode range. -/
theorem witness_DecodeNamesTheGround :
    Word.opcode 0x00000001 = 0 ∧ 10 ≤ Word.opcode 0xA0000000 ∧
    (Word.opcode 0x17FF0000 = 1 ∧ (0x17FF0000 : Word) &&& reservedMask std 1 ≠ 0) ∧
    (Word.opcode 0x94000000 = 9 ∧ (0x94000000 : Word) &&& reservedMask std 9 ≠ 0) ∧
    (Word.opcode 0x3E000000 = 3 ∧ (0x3E000000 : Word) &&& reservedMask std 3 = 0 ∧
      (0x3E000000 : Word).extractLsb' 25 2 = 3) ∧ Word.legal std 0x9FFF0000 = false ∧
    Word.legal std 0x9800FFFF = true ∧ 255 < 2 ^ std.pinField := by decide

/-- Both clauses: a word of HOST's program, and a word of the table placed first. -/
theorem witness_StepIssuesTheDecodedCommand :
    Engine.seq { unbuilt with program := [0x10000203] } = .idle ∧
    Engine.program { unbuilt with program := [0x10000203] } = [0x10000203] ∧
    decode std 0x10000203 = .ok (.construct 2 3) ∧ decodeTableWord 32 0x9800FFFF = some (.avgRead .b 65535) ∧
    decodeTableWord 16 0x20000000 = none := by decide

theorem witness_StepRefusesIllegalWords :
    Engine.seq { live with program := [0x36000000] } = .idle ∧
    decode std 0x36000000 = .error .reservedGain ∧
    stepped { live with program := [0x36000000] } = .refused (.illegalCommand .reservedGain) := by
  and_intros <;> first | decide | rfl

/-- The default count fits its field; the four lines of R108 are four commands. -/
theorem witness_PseudoInstructionsExpand :
    std.defaultCount < 2 ^ std.countField ∧
    assemble std "CALIBRATE A".toList = some (.calibrate .a 16) ∧
    assemble std "READCAL.B".toList = some (.readCal .b) := by decide

/-- Both clauses. -/
theorem witness_ParametersNeverChange : issued .teardown live = next (inside (.teardown .dirData) []) ∧
    run 1 ⟨std, live⟩ = next live := by
  and_intros <;> rfl

theorem witness_IdleEngineStays : live.Final := ⟨rfl, rfl⟩

/-- A step of each kind of call: a poll, a write, a direction, the delay. -/
theorem witness_OneCallPerEngineStep :
    (inside (.select .poll .alone) [.high]).seq ≠ .idle ∧
    after (stepped (inside (.select .poll .alone) [.high])) (·.trace) = some [.read 2 .high] ∧
    after (stepped (inside (.shiftIn .rise .alone) [])) (·.trace) = some [.write 3 .high] ∧
    after (stepped (inside (.teardown .dirData) [])) (·.trace) = some [.dir 2 .input] ∧
    after (stepped (inside (.construct .delay) [])) (·.trace) = some [.delay 100] := by decide

/-- The same steps, and one that produces no event. -/
theorem witness_EngineEventsAreOnItsTwoPins :
    after (stepped (inside (.construct .dirClock) [])) (·.trace) = some [.dir 3 .output] ∧
    stepped live = next live ∧ live.pinData ≠ live.pinClock := by
  and_intros <;> first | decide | rfl

/-- The first write of a selection pulse. -/
theorem witness_WritesAlternateWhileLive :
    let s : Engine std := { inside (.select .rise .alone) [] with pcnt := 1 }
    s.Inv ∧ s.life = .live ∧
      stepped s = next { s with
        trace := [.write 3 .high], clkOut := .high, seq := .select .fall .alone } := by
  refine ⟨⟨rfl, ?_, trivial, rfl, by decide⟩, rfl, rfl⟩
  exact { live_configured with }

/-- A command that writes no register but its own, and each that the other clauses set apart. -/
theorem witness_IssuingTouchesNoPin :
    issued (.setGain .a .g64) live = next { live with gainA := .g64 } ∧
    after (issued (.construct 2 3) unbuilt) (·.pinClock) = some 3 ∧
    after (issued (.calibrate .a 1) { live with sum := 9 }) (·.sum) = some 0 ∧
    after (issued (.avgRead .a 1) { live with fsum := 9 }) (·.fsum) = some 0 := by
  and_intros <;> first | decide | rfl

theorem witness_PowerOnAwaitsConstruct : ∀ d c, Instr.teardown ≠ .construct d c := by
  intro d c h
  cases h

/-- From UNBUILT and from DEAD. -/
theorem witness_ConstructCompletes : unbuilt.seq = .idle ∧ unbuilt.life ≠ .live ∧
    Engine.life { unbuilt with life := .dead } ≠ .live ∧ (2 : std.PinId) ≠ 3 := by decide

theorem witness_ConstructWithEqualPinsIsRefused :
    issued (.construct 3 3) { unbuilt with life := .dead } = .refused .samePin := rfl

/-- LIVE for the first clause, IDLE with two pins for the second. -/
theorem witness_ConstructForgetsThePast : live.seq = .idle ∧ live.life = .live ∧ (5 : std.PinId) ≠ 4 := by
  decide

theorem witness_TeardownCompletes : live.seq = .idle ∧ live.life = .live := by decide

/-- Each clause: UNBUILT and a read; LIVE and CONSTRUCT. -/
theorem witness_WrongLifecycleIsRefused :
    (unbuilt.life ≠ .live ∧ ∀ d c, Instr.readRaw .a ≠ .construct d c) ∧
    (live.life = .live ∧ ∃ d c, Instr.construct 2 3 = .construct d c) :=
  ⟨⟨by decide, fun d c h => nomatch h⟩, rfl, 2, 3, rfl⟩

theorem witness_BusyEngineRefusesEveryCommand :
    (inside (.select .poll .alone) []).seq ≠ .idle ∧
    issued .teardown (inside (.select .poll .alone) []) = .refused .busy := by
  and_intros <;> first | decide | rfl

theorem witness_PinsAreImmutableWhileLive :
    stepped (inside (.teardown .dirData) []) = next { inside (.teardown .dirClock) [] with
      trace := [.dir 2 .input] } ∧ (inside (.teardown .dirClock) []).life = .live := by
  and_intros <;> first | decide | rfl

/-- Both clauses of the table. -/
theorem witness_SetGainTable : live.seq = .idle ∧ live.life = .live ∧
    issued (.setGain .b .g32) live = next live := by
  and_intros <;> first | decide | rfl

/-- No failed poll and two; pulses, and a parameter table without any. -/
theorem witness_SelectCompletes :
    Engine.script { live with script := [.low] } = waitScript 0 ++ [] ∧
    Engine.script { live with script := [.high, .high, .low, .high] } = waitScript 2 ++ [.high] ∧
    pulses std (live.gainOf .a) = 128 ∧
    pulses { std with pulses128 := 0 } (live.gainOf .a) = 0 := by decide

/-- The premises of the clause about channel B. -/
theorem witness_SelectCompletes_b : live.Inv ∧ pulses std (live.gainOf .b) = 32 :=
  ⟨live_inv, by decide⟩

theorem witness_ShiftInCompletes : zeros.length = std.sampledBits ∧
    std.sampleBits = 24 ∧ std.sampledBits = 23 ∧
    Engine.script { live with script := .high :: .low :: zeros } = waitScript 1 ++ (zeros ++ []) := by
  decide

/-- The last call with one slot that is not sampled, and with none. -/
theorem witness_SignExtensionLaw : LastCall .alone (lastCall .alone 0x00FFFFFE) ∧
    LastCall .alone { Engine.powerOn everyBit with seq := .shiftIn .fall .alone } ∧
    (lastCall .alone 0x00FFFFFE).acc.toNat < 2 ^ std.sampleBits ∧
    (0xFFFFFE : BitVec 24).getLsbD 23 = true ∧ (0x7FFFFE : BitVec 24).getLsbD 23 = false :=
  ⟨.inl ⟨rfl, by decide⟩, .inr ⟨rfl, rfl, rfl⟩, by decide, by decide, by decide⟩

/-- The most negative and the largest pattern, one with bit 23 clear, an even value in range. -/
theorem witness_RawSampleShape :
    (Level.high :: List.replicate 22 Level.low).length = std.sampledBits ∧
    (2 : Int) ^ std.lowestBit ∣ 8388606 ∧ RawRange std 8388606 ∧
    RawRange std (-8388608) := by
  refine ⟨by decide, by decide, ?_, ?_⟩ <;> unfold RawRange <;> decide

/-- Both premises of the second clause. -/
theorem witness_ShiftInIgnoresConfiguration :
    issued (.shiftIn .a) live = next (live.beginShiftIn .alone) ∧
    operate 1 { live.beginShiftIn .alone with script := [.high] } =
      .next { live.beginShiftIn .alone with trace := [.read 2 .high] } := by
  and_intros <;> first | decide | rfl

theorem witness_HighAnswersKeepItWaiting :
    (inside (.shiftIn .poll .alone) [.high, .high, .low]).seq = .shiftIn .poll .alone ∧
    (inside (.shiftIn .poll .alone) [.high, .high, .low]).script =
      List.replicate 2 .high ++ [.low] := by decide

theorem zeros_full : (reading zeros).Full std := rfl

theorem witness_ReadRawCompletes : (reading zeros).Full std ∧
    (reading zeros).polls₁ = 0 ∧ (reading zeros).polls₂ = 0 ∧
    Engine.script { live with script := [.low, .low] ++ zeros } = (reading zeros).script ++ [] :=
  ⟨rfl, rfl, rfl, by decide⟩

/-- V-RC-5: the largest calibrated result, and the state of V-RC-9's kind. -/
theorem witness_ReadCalCompletes : live.seq = .idle ∧ live.life = .live ∧
    (((reading zeros).raw std - (live.offsetOf .a).toInt) *
      ((2 ^ std.fracBits / divisor .a live.gainA : Nat) : Int)).natAbs <
        2 ^ (std.accW - 1) ∧
    ((8388606 - -8388608) * ((2 ^ std.fracBits / divisor .a .g32 : Nat) : Int)).natAbs <
      2 ^ (std.accW - 1) := by decide

/-- V-RC-14: an offset outside the invariant. -/
theorem witness_ReadCalRefusesWhatDoesNotFit :
    let s : Engine std :=
      { live with gainA := .g32, offsetA := 0x40000000, script := [.low, .low] ++ zeros }
    s.script = (reading zeros).script ++ [] ∧
    2 ^ (std.accW - 1) ≤ ((reading zeros).raw std - (s.offsetOf .a).toInt).natAbs *
      (2 ^ std.fracBits / divisor .a s.gainA) := by
  decide

theorem witness_DivisorTable : live.Inv ∧ live.seq = .idle ∧ live.life = .live ∧
    inFamily .a std.gainAReset = true := ⟨live_inv, rfl, rfl, rfl⟩

/-- The ends of both ranges (V-RC-5, V-RC-6). -/
theorem witness_CalibratedResultIsExact : RawRange std (2 ^ 23 - 2) ∧ RawRange std (-2 ^ 23) := by
  constructor <;> unfold RawRange <;> decide

theorem witness_CalibrateCompletes : live.seq = .idle ∧ live.life = .live ∧
    ([] : List Reading).length + 1 = (1 : BitVec 16).toNat ∧
    (∀ r ∈ [] ++ [reading zeros], r.Full std) ∧
    Engine.script { live with script := [.low, .low] ++ zeros } =
      scripts ([] ++ [reading zeros]) ++ [] := by
  refine ⟨rfl, rfl, rfl, ?_, by decide⟩
  intro r hr
  rw [List.mem_singleton.1 hr]
  rfl

theorem witness_StoredOffsetFits : [reading zeros] ≠ [] ∧ ∀ r ∈ [reading zeros], r.Full std := by
  refine ⟨by decide, fun r hr => ?_⟩
  rw [List.mem_singleton.1 hr]
  rfl

/-- Each clause: a negative and a positive sum; equal samples. -/
theorem witness_MeanTruncatesTowardZero : (0 : Int) < 1 ∧ (0 : Int) ≤ 1001 ∧ (-1001 : Int) ≤ 0 ∧
    ∀ r ∈ [reading zeros, reading zeros], r.raw std = 0 := by
  refine ⟨by decide, by decide, by decide, fun r hr => ?_⟩
  simp only [List.mem_cons, List.not_mem_nil, or_false, or_self] at hr
  subst hr
  decide

theorem witness_ReadAfterConstantCalibrationIsZero :
    ([] : List Reading).length + 1 = (1 : BitVec 16).toNat ∧
    (∀ x ∈ [] ++ [reading zeros, reading zeros], x.Full std ∧ x.raw std = 0) ∧
    Engine.script { live with script := [.low, .low] ++ zeros ++ ([.low, .low] ++ zeros) } =
      scripts ([] ++ [reading zeros]) ++ ((reading zeros).script ++ []) := by
  refine ⟨rfl, fun x hx => ?_, by decide⟩
  simp only [List.nil_append, List.mem_cons, List.not_mem_nil, or_false, or_self] at hx
  subst hx
  exact ⟨rfl, by decide⟩

theorem witness_CountZeroFaults : live.seq = .idle ∧ live.life = .live := by decide

/-- Both cases of the premise that keeps `FSUM` from overflowing. -/
theorem witness_AvgReadCompletes : live.seq = .idle ∧ live.life = .live ∧
    (1 : std.Count) ≠ 0 ∧ [reading zeros].length = (1 : std.Count).toNat ∧
    (∀ r ∈ [reading zeros], r.Full std) ∧
    (∀ r ∈ [reading zeros], (fixedPoint std .a live.gainA (r.raw std)
      (live.offsetOf .a).toInt).natAbs < 2 ^ (std.accW - 1)) ∧
    (65535 * 2 ^ (std.accW - 1) ≤ 2 ^ 63 ∧
      RawRange std (live.offsetOf .a).toInt) ∧
    Engine.script { live with script := [.low, .low] ++ zeros } = scripts [reading zeros] ++ [] := by
  refine ⟨rfl, rfl, by decide, rfl, fun r hr => ?_, fun r hr => ?_, ⟨by decide, ?_⟩, by decide⟩
  · rw [List.mem_singleton.1 hr]
    rfl
  · rw [List.mem_singleton.1 hr]
    decide
  · unfold RawRange
    decide

/-- Each premise: a count, a multiple of it, a bound that is met exactly. -/
theorem witness_AverageRounding : (0 : Int) < 3 ∧ (3 : Int) ∣ 9 ∧
    (-10 : Int).natAbs ≤ (3 * 4 : Int).natAbs ∧ (-12 : Int).natAbs ≤ (3 * -4 : Int).natAbs := by decide

/-- A SELECT that is part of a READCAL; the last call of a CALIBRATE, of B, leaves A's offset. -/
theorem witness_ReadsLeaveConfigurationAlone :
    after (stepped (inside (.select .poll (.readCal .a)) [.high])) (·.gainA) = some .g128 ∧
    after (stepped { lastCall (.calibrate .b 2) 4 with cnt := 2 }) (·.seq) =
      some (.select .poll (.calibrate .b 2)) ∧
    (∀ n, (Owner.calibrate .b 2 : Owner std) ≠ .calibrate .a n) ∧
    ¬ LastCall .alone (inside (.shiftIn .fall .alone) []) := by
  refine ⟨by decide, by decide, fun n h => (nomatch h), ?_⟩
  rintro (⟨h, _⟩ | ⟨h, _⟩)
  · cases h
  · exact absurd h (by decide)

/-- Each clause: an idle step; CALIBRATE and AVGREAD issued, with an accumulator that changes. -/
theorem witness_DatapathRegistersChangeOnlyInTheirSteps :
    after (stepped { live with program := [0x80000004], sum := 5 }) (·.sum) = some 0 ∧
    after (stepped { live with program := [0x90000004], fsum := 5 }) (·.fsum) = some 0 ∧
    (∀ c o, live.seq ≠ .shiftIn c o) :=
  ⟨by decide, by decide, fun c o h => nomatch h⟩

/-- From the states that meet the invariant there are steps that give a next state. -/
theorem witness_StepKeepsTheInvariant : live.Inv ∧ stepped live = next live ∧
    unbuilt.Inv ∧ stepped unbuilt = next unbuilt :=
  ⟨live_inv, rfl, trivial, rfl⟩

theorem witness_NoResultOverflowUnderTheInvariant : live.Inv := live_inv

/-- A fault, for each of the two commands. -/
theorem witness_OnlyCountZeroFaults :
    Engine.Inv { live with program := [0x88000000] } ∧
    stepped { live with program := [0x88000000] } = .fault .divideByZero ∧
    stepped { live with program := [0x98000000] } = .fault .divideByZero := by
  refine ⟨⟨?_, rfl⟩, rfl, rfl⟩
  exact { live_configured with }

end Sys2Proof.Tests
end

section
/-! # What a step of the whole machine is, and what no run changes

The statements of spec 00: the decoded command is executed (R16), an idle engine stays (R16, R220), a
busy one refuses (R7), and the parameters are fixed (R5). The lemmas come first: the issuing of a word,
the check that every meaning makes first, and the induction over the steps of a run. -/

namespace Sys2Proof.Machine

variable {p : Params} {e : Engine p}

/-! ## Issuing a word -/

theorem issueWord_of_decode {s : State} {w : Word} {i : Instr} (h : decode s.params w = .ok i) :
    issueWord w s = exec i s := by
  rw [issueWord, h]

/-- A word that decodes is issued as its command, once the program has lost it (R16, R100). -/
theorem step_of_decode {w : Word} {rest : List Word} {i : Instr} (hs : e.seq = .idle)
    (hp : e.program = w :: rest) (hd : decode p w = .ok i) :
    step ⟨p, e⟩ = exec i ⟨p, { e with program := rest }⟩ := by
  rw [step_of_word hs hp]
  exact issueWord_of_decode hd

theorem decodeTableWord_eq_some_iff {nbits w : Nat} {i : Instr} :
    decodeTableWord nbits w = some i ↔ decode Params.literal (tableWord nbits w) = .ok i := by
  unfold decodeTableWord
  cases decode Params.literal (tableWord nbits w) <;> simp

/-! ## The check every meaning makes first -/

/-- Every meaning asks first whether an operation is in progress: the commands other than CONSTRUCT as
the first half of `whenLive` (R7, R193, log 18). -/
theorem exec_eq_lift_whenIdle (i : Instr) (e : Engine p) :
    ∃ k : Outcome p, exec i ⟨p, e⟩ = lift (whenIdle e k) := by
  cases i <;> exact ⟨_, rfl⟩

/-! ## Runs -/

/-- A state that steps to itself is where every run from it ends. -/
theorem run_of_step_self {s : State} (h : step s = .next s) (k : Nat) : run k s = .next s := by
  induction k with
  | zero => rfl
  | succ k ih => exact run_cons h ih

/-- What every step keeps, every run keeps. -/
theorem run_preserves {P : State → Prop} (hstep : ∀ s t, P s → step s = .next t → P t) {k : Nat}
    {s t : State} (hs : P s) (h : run k s = .next t) : P t := by
  induction k generalizing s with
  | zero =>
    cases h
    exact hs
  | succ k ih =>
    rw [run_succ_eq] at h
    cases hu : step s with
    | next u =>
      rw [hu] at h
      exact ih (hstep s u hs hu) h
    | fault f => rw [hu] at h; cases h
    | refused r => rw [hu] at h; cases h

/-! ## The parameters (R5) -/

theorem exec_params {i : Instr} {s t : State} (h : exec i s = .next t) : t.params = s.params := by
  obtain ⟨u, rfl, _⟩ := exec_next h
  rfl

/-- The engine's step acts under `lift`, HOST's issues a command, and the step of a done machine is the
state itself. -/
theorem step_params {s t : State} (h : step s = .next t) : t.params = s.params := by
  rcases step_cases h with ⟨_, hr⟩ | ⟨_, _, hr⟩ | ⟨_, _, _, _, _, _, hr⟩ | ⟨_, _, _, _, _, _, hr⟩
  · obtain ⟨u, _, rfl⟩ := lift_next_iff.1 hr.symm
    rfl
  · cases hr
    rfl
  · exact (exec_params hr.symm :)
  · cases hr

theorem run_params {k : Nat} {s t : State} (h : run k s = .next t) : t.params = s.params :=
  run_preserves (P := fun u => u.params = s.params)
    (fun _ _ hu hstep => (step_params hstep).trans hu) rfl h

/-! ## The statements -/

/-- Settles O6. A word placed by `withFetchWord` is one that stands first in an idle machine's program,
so the first clause gives the second. -/
theorem stepIssuesTheDecodedCommand : Obligations.StepIssuesTheDecodedCommand := by
  unfold Obligations.StepIssuesTheDecodedCommand
  refine ⟨fun p e w rest i hs hp hd => step_of_decode hs hp hd, fun e nbits w i hd => ?_⟩
  exact step_of_decode rfl rfl (decodeTableWord_eq_some_iff.1 hd)

/-- Settles O8: a final state steps to itself. -/
theorem idleEngineStays : Obligations.IdleEngineStays := by
  unfold Obligations.IdleEngineStays
  rintro p e k ⟨hseq, hprogram⟩
  exact run_of_step_self (step_of_done hseq hprogram) k

/-- Settles O19: the first check of every meaning fails. -/
theorem busyEngineRefusesEveryCommand : Obligations.BusyEngineRefusesEveryCommand := by
  unfold Obligations.BusyEngineRefusesEveryCommand
  intro p e i hbusy
  obtain ⟨k, hk⟩ := exec_eq_lift_whenIdle i e
  rw [hk, whenIdle_of_busy hbusy, lift_refused]

/-- Settles O46, by induction on the number of steps. -/
theorem parametersNeverChange : Obligations.ParametersNeverChange := by
  unfold Obligations.ParametersNeverChange
  exact ⟨fun _ _ _ h => exec_params h, fun _ _ _ h => run_params h⟩

end Sys2Proof.Machine
end

section
/-! # What a step of each kind can lead to, and the registers it leaves alone

First the lemmas that say it once: what HOST's issue of a command leads to, what CONSTRUCT's and
TEARDOWN's steps leave alone, and the frame of SELECT and SHIFTIN for whatever operation they belong to.
Then the statements of spec 10 that are frames: one call a step (R40), the pins (R22, R23), the
configuration (R29) and the datapath (R30 to R33). -/

namespace Sys2Proof.Machine

variable {p : Params} {o : Owner p} {last : Prop} {e u t : Engine p}

/-! ## Issuing a command -/

/-- What issuing a command leads to, where it is neither refused nor faults: the writes before the first
platform call, and `SEQ` (R140, R180, R183; log 2). -/
inductive Issued (e : Engine p) : Instr → Engine p → Prop
  | construct (dpin cpin : Nat) (notLive : e.life ≠ .live)
      (apart : BitVec.ofNat p.pinW dpin ≠ BitVec.ofNat p.pinW cpin) :
      Issued e (.construct dpin cpin)
        { e with
          pinData := BitVec.ofNat p.pinW dpin
          pinClock := BitVec.ofNat p.pinW cpin
          seq := .construct .dirData }
  | teardown (live : e.life = .live) : Issued e .teardown { e with seq := .teardown .dirData }
  | setGain (ch : Channel) (g : GainSetting) (live : e.life = .live) :
      Issued e (.setGain ch g) (e.offerGain ch g)
  | select (ch : Channel) (live : e.life = .live) : Issued e (.select ch) (e.beginSelect ch .alone)
  | shiftIn (ch : Channel) (live : e.life = .live) : Issued e (.shiftIn ch) (e.beginShiftIn .alone)
  | readRaw (ch : Channel) (live : e.life = .live) :
      Issued e (.readRaw ch) (e.beginSelect ch (.readRaw ch))
  | readCal (ch : Channel) (live : e.life = .live) :
      Issued e (.readCal ch) (e.beginSelect ch (.readCal ch))
  | calibrate (ch : Channel) (k : Nat) (n : p.Count) (live : e.life = .live)
      (count : n = BitVec.ofNat p.cntW k) (some_reads : n ≠ 0) :
      Issued e (.calibrate ch k)
        (Engine.beginSelect ch (.calibrate ch n) { e with sum := 0, cnt := n })
  | avgRead (ch : Channel) (k : Nat) (n : p.Count) (live : e.life = .live)
      (count : n = BitVec.ofNat p.cntW k) (some_reads : n ≠ 0) :
      Issued e (.avgRead ch k)
        (Engine.beginSelect ch (.avgRead ch n) { e with fsum := 0, cnt := n })

/-- CONSTRUCT goes on only unless LIVE and with two distinct pins (R181, R182). -/
theorem beginConstruct_next {d c : p.PinId} (h : e.beginConstruct d c = .next t) :
    e.life ≠ .live ∧ d ≠ c ∧
      t = { e with pinData := d, pinClock := c, seq := .construct .dirData } := by
  obtain ⟨_, h⟩ := whenIdle_next_iff.1 h
  split_ifs at h with hlive hpins
  cases h
  exact ⟨hlive, hpins, rfl⟩

/-- CALIBRATE is under way with its first read where its count is not 0 (R160, R162). -/
theorem beginCalibrate_next {ch : Channel} {n : p.Count} (h : e.beginCalibrate ch n = .next t) :
    e.life = .live ∧ n ≠ 0 ∧
      t = Engine.beginSelect ch (.calibrate ch n) { e with sum := 0, cnt := n } := by
  obtain ⟨_, hlive, h⟩ := whenLive_next_iff.1 h
  rcases calibrateLoop_next h with ⟨hn, rfl⟩ | ⟨h0, hn, _⟩
  · exact ⟨hlive, hn, rfl⟩
  · exact absurd h0 hn

/-- The same of AVGREAD (R170, R172). -/
theorem beginAvgRead_next {ch : Channel} {n : p.Count} (h : e.beginAvgRead ch n = .next t) :
    e.life = .live ∧ n ≠ 0 ∧
      t = Engine.beginSelect ch (.avgRead ch n) { e with fsum := 0, cnt := n } := by
  obtain ⟨_, hlive, h⟩ := whenLive_next_iff.1 h
  rcases avgReadLoop_next h with ⟨hn, rfl⟩ | ⟨h0, hn, _⟩
  · exact ⟨hlive, hn, rfl⟩
  · exact absurd h0 hn

/-- A command whose meaning is one state behind the checks of R193. -/
theorem lift_whenLive_next (h : lift (whenLive e (.next u)) = .next ⟨p, t⟩) : e.life = .live ∧ u = t := by
  obtain ⟨_, hlive, hu⟩ := whenLive_next_iff.1 (lift_next_mk_iff.1 h)
  cases hu
  exact ⟨hlive, rfl⟩

theorem exec_next_issued {i : Instr} (h : exec i ⟨p, e⟩ = .next ⟨p, t⟩) : Issued e i t := by
  cases i with
  | construct dpin cpin =>
    obtain ⟨hlive, hpins, rfl⟩ := beginConstruct_next (lift_next_mk_iff.1 h)
    exact .construct dpin cpin hlive hpins
  | teardown =>
    obtain ⟨hlive, rfl⟩ := lift_whenLive_next h
    exact .teardown hlive
  | setGain ch g =>
    obtain ⟨hlive, rfl⟩ := lift_whenLive_next h
    exact .setGain ch g hlive
  | select ch =>
    obtain ⟨hlive, rfl⟩ := lift_whenLive_next h
    exact .select ch hlive
  | shiftIn ch =>
    obtain ⟨hlive, rfl⟩ := lift_whenLive_next h
    exact .shiftIn ch hlive
  | readRaw ch =>
    obtain ⟨hlive, rfl⟩ := lift_whenLive_next h
    exact .readRaw ch hlive
  | readCal ch =>
    obtain ⟨hlive, rfl⟩ := lift_whenLive_next h
    exact .readCal ch hlive
  | calibrate ch k =>
    obtain ⟨hlive, hn, rfl⟩ := beginCalibrate_next (lift_next_mk_iff.1 h)
    exact .calibrate ch k _ hlive rfl hn
  | avgRead ch k =>
    obtain ⟨hlive, hn, rfl⟩ := beginAvgRead_next (lift_next_mk_iff.1 h)
    exact .avgRead ch k _ hlive rfl hn

/-- What a next state comes from: the engine's own step, no step of anyone, or HOST's next command. -/
theorem step_next_cases (h : step ⟨p, e⟩ = .next ⟨p, t⟩) :
    (e.seq ≠ .idle ∧ engineStep e = .next t) ∨
    (e.seq = .idle ∧ t = e) ∨
    (∃ w rest i, e.seq = .idle ∧ e.program = w :: rest ∧ decode p w = .ok i ∧
      Issued { e with program := rest } i t) := by
  rcases step_cases h with ⟨hb, hr⟩ | ⟨hi, _, hr⟩ | ⟨w, rest, i, hi, hp, hd, hr⟩ | ⟨_, _, _, _, _, _, hr⟩
  · exact .inl ⟨hb, lift_next_mk_iff.1 hr.symm⟩
  · cases hr
    exact .inr (.inl ⟨hi, rfl⟩)
  · exact .inr (.inr ⟨w, rest, i, hi, hp, hd, exec_next_issued hr.symm⟩)
  · cases hr

theorem engineStep_of_step (hb : e.seq ≠ .idle) (h : step ⟨p, e⟩ = .next ⟨p, t⟩) :
    engineStep e = .next t := by
  rw [step_of_busy hb] at h
  exact lift_next_mk_iff.1 h

/-- SETGAIN writes no register but the two gains (R140, R142). -/
theorem offerGain_frame (ch : Channel) (g : GainSetting) (e : Engine p) :
    ∃ a b, e.offerGain ch g = { e with gainA := a, gainB := b } := by
  rcases offerGain_cases ch g e with ⟨_, _, h⟩ | ⟨_, _, h⟩ | ⟨_, h⟩
  · exact ⟨_, _, h⟩
  · exact ⟨_, _, h⟩
  · exact ⟨_, _, h⟩

/-! ## The steps of CONSTRUCT and TEARDOWN -/

section
variable (call : ConstructCall)

@[simp] theorem constructStep_pinData : (constructStep call e).pinData = e.pinData := by
  cases call <;> rfl
@[simp] theorem constructStep_pinClock : (constructStep call e).pinClock = e.pinClock := by
  cases call <;> rfl
@[simp] theorem constructStep_acc : (constructStep call e).acc = e.acc := by cases call <;> rfl
@[simp] theorem constructStep_result : (constructStep call e).result = e.result := by
  cases call <;> rfl
@[simp] theorem constructStep_sum : (constructStep call e).sum = e.sum := by cases call <;> rfl
@[simp] theorem constructStep_fsum : (constructStep call e).fsum = e.fsum := by cases call <;> rfl
@[simp] theorem constructStep_program : (constructStep call e).program = e.program := by
  cases call <;> rfl

theorem constructStep_event : ∃ ev, (constructStep call e).trace = e.trace ++ [ev] := by
  cases call <;> exact ⟨_, rfl⟩

end

section
variable (call : TeardownCall)

@[simp] theorem teardownStep_acc : (teardownStep call e).acc = e.acc := by cases call <;> rfl
@[simp] theorem teardownStep_result : (teardownStep call e).result = e.result := by
  cases call <;> rfl
@[simp] theorem teardownStep_sum : (teardownStep call e).sum = e.sum := by cases call <;> rfl
@[simp] theorem teardownStep_fsum : (teardownStep call e).fsum = e.fsum := by cases call <;> rfl
@[simp] theorem teardownStep_program : (teardownStep call e).program = e.program := by
  cases call <;> rfl

theorem teardownStep_event : ∃ ev, (teardownStep call e).trace = e.trace ++ [ev] := by
  cases call <;> exact ⟨_, rfl⟩

/-- TEARDOWN's last step destroys the pins and leaves the engine DEAD; the one before keeps them (R183). -/
theorem teardownStep_pins (h : (teardownStep call e).life = .live) :
    (teardownStep call e).pinData = e.pinData ∧ (teardownStep call e).pinClock = e.pinClock := by
  cases call with
  | dirData => exact ⟨rfl, rfl⟩
  | dirClock => cases h

end

/-! ## The frame of SELECT and SHIFTIN (R29) -/

/-- SHIFTIN's wait goes on, or the frame begins (R120, R127). -/
theorem shiftInStep_poll_next (h : shiftInStep .poll o (afterShiftIn o) e = .next t) :
    t = e.pinRead ∨ t = e.pinRead.clearAcc o := by
  simp only [shiftInStep] at h
  rcases waitReady_next h with ⟨_, rfl⟩ | ⟨_, h⟩
  · exact .inl rfl
  · cases h
    exact .inr rfl

/-- READCAL ends with a result that fits (R152, R156). -/
theorem afterShiftIn_readCal_next {ch : Channel} (h : afterShiftIn (.readCal ch) e = .next t) :
    ∃ r, t = Engine.endRead { e with result := r } := by
  simp only [afterShiftIn] at h
  obtain ⟨_, h⟩ := calibratedThen_next h
  cases h
  exact ⟨_, rfl⟩

/-- AVGREAD goes on with a result that fits (R152, R156, R170). -/
theorem afterShiftIn_avgRead_next {ch : Channel} {n : p.Count}
    (h : afterShiftIn (.avgRead ch n) e = .next t) :
    ∃ v, v = fixedPoint p ch e.gainA e.result.toInt (e.offsetOf ch).toInt ∧
      v.natAbs < 2 ^ (p.accW - 1) ∧
      avgReadLoop ch n (Engine.addCal { e with result := BitVec.ofInt p.accW v }) = .next t := by
  simp only [afterShiftIn] at h
  obtain ⟨hv, h⟩ := calibratedThen_next h
  exact ⟨_, rfl, hv, h⟩

/-- What stays, and the pin events `evs` that are added, in a part of a step of SELECT or SHIFTIN for the
operation `o`. With `last`, the part may be of SHIFTIN's last call, after which a sample is used: then
`RESULT` and `CNT` may change, CALIBRATE writes its own channel's offset and `SUM`, and AVGREAD `FSUM`. -/
structure ReadFrame (o : Owner p) (last : Prop) (evs : List (PinEvent p)) (e t : Engine p) : Prop where
  trace : t.trace = e.trace ++ evs
  program : t.program = e.program
  life : t.life = e.life
  pinData : t.pinData = e.pinData
  pinClock : t.pinClock = e.pinClock
  gainA : t.gainA = e.gainA
  gainB : t.gainB = e.gainB
  dirData : t.dirData = e.dirData
  dirClock : t.dirClock = e.dirClock
  offsetA : ¬ (last ∧ ∃ n, o = .calibrate .a n) → t.offsetA = e.offsetA
  offsetB : ¬ (last ∧ ∃ n, o = .calibrate .b n) → t.offsetB = e.offsetB
  sum : ¬ (last ∧ ∃ ch n, o = .calibrate ch n) → t.sum = e.sum
  fsum : ¬ (last ∧ ∃ ch n, o = .avgRead ch n) → t.fsum = e.fsum
  result : ¬ last → t.result = e.result
  cnt : ¬ last → t.cnt = e.cnt

/-- One part of a step after another. -/
theorem ReadFrame.trans {evs evs' : List (PinEvent p)} (h : ReadFrame o last evs e u)
    (h' : ReadFrame o last evs' u t) : ReadFrame o last (evs ++ evs') e t where
  trace := by rw [h'.trace, h.trace, List.append_assoc]
  program := h'.program.trans h.program
  life := h'.life.trans h.life
  pinData := h'.pinData.trans h.pinData
  pinClock := h'.pinClock.trans h.pinClock
  gainA := h'.gainA.trans h.gainA
  gainB := h'.gainB.trans h.gainB
  dirData := h'.dirData.trans h.dirData
  dirClock := h'.dirClock.trans h.dirClock
  offsetA hn := (h'.offsetA hn).trans (h.offsetA hn)
  offsetB hn := (h'.offsetB hn).trans (h.offsetB hn)
  sum hn := (h'.sum hn).trans (h.sum hn)
  fsum hn := (h'.fsum hn).trans (h.fsum hn)
  result hn := (h'.result hn).trans (h.result hn)
  cnt hn := (h'.cnt hn).trans (h.cnt hn)

theorem ReadFrame.pinRead : ReadFrame o last [.read e.pinData e.nextLevel] e e.pinRead := by
  constructor <;> simp

theorem ReadFrame.pinWrite (l : Level) :
    ReadFrame o last [.write e.pinClock l] e (e.pinWrite l) := by
  constructor <;> simp

/-- The registers a procedure keeps its place in, and its accumulator, are no part of the frame. -/
theorem ReadFrame.place (acc : p.Container) (bit : BitVec 5) (pcnt : Nat) (seq : Seq p) (draws : Nat) :
    ReadFrame o last [] e
      { e with acc := acc, bit := bit, pcnt := pcnt, seq := seq, draws := draws } := by
  constructor <;> simp

theorem pulseLoop_frame (h : pulseLoop o (afterSelect o) e = .next t) : ReadFrame o last [] e t := by
  rcases pulseLoop_next h with ⟨_, rfl⟩ | ⟨_, _, rfl⟩ | ⟨_, _, rfl⟩
  · exact .place ..
  · exact .place ..
  · exact .place ..

/-- SELECT moves none of the registers of the frame, for whatever operation (R29, R124). -/
theorem selectStep_frame {call : SelectCall} (h : selectStep call o (afterSelect o) e = .next t) :
    ∃ ev, ReadFrame o last [ev] e t := by
  cases call with
  | poll =>
    rcases waitReady_next h with ⟨_, rfl⟩ | ⟨_, h⟩
    · exact ⟨_, .pinRead⟩
    · exact ⟨_, ReadFrame.pinRead.trans (pulseLoop_frame h)⟩
  | rise =>
    cases h
    exact ⟨_, (ReadFrame.pinWrite .high).trans (.place ..)⟩
  | fall => exact ⟨_, ((ReadFrame.pinWrite .low).trans (.place ..)).trans (pulseLoop_frame h)⟩

theorem pulseLoop_acc (h : pulseLoop o (afterSelect o) e = .next t) : t.acc = e.acc := by
  rcases pulseLoop_next h with ⟨_, rfl⟩ | ⟨_, _, rfl⟩ | ⟨_, _, rfl⟩
  · rfl
  · rfl
  · rfl

/-- SELECT leaves the accumulator of SHIFTIN alone (R30). -/
theorem selectStep_acc {call : SelectCall} (h : selectStep call o (afterSelect o) e = .next t) :
    t.acc = e.acc := by
  cases call with
  | poll =>
    rcases waitReady_next h with ⟨_, rfl⟩ | ⟨_, h⟩
    · simp
    · simpa using pulseLoop_acc h
  | rise =>
    cases h
    rfl
  | fall => exact (pulseLoop_acc h :)

theorem ReadFrame.takeSample (hl : last) : ReadFrame o last [] e e.takeSample := by
  constructor <;> simp [hl]

theorem ReadFrame.calibrated (hl : last) (v : p.Container) :
    ReadFrame o last [] e { e with result := v } := by
  constructor <;> simp [hl]

/-- The turn of CALIBRATE's loop writes its own channel's offset, and that only (R160). -/
theorem calibrate_turn_frame {ch : Channel} {n : p.Count} (hl : last)
    (h : calibrateLoop ch n e.addRaw = .next t) : ReadFrame (.calibrate ch n) last [] e t := by
  rcases calibrateLoop_next h with ⟨_, rfl⟩ | ⟨_, _, rfl⟩
  · constructor <;> simp [hl]
  · cases ch
    · constructor <;> simp [hl, Engine.storeMean]
    · constructor <;> simp [hl, Engine.storeMean]

/-- The turn of AVGREAD's loop writes no configuration register (R29, R170). -/
theorem avgRead_turn_frame {ch : Channel} {n : p.Count} (hl : last)
    (h : avgReadLoop ch n e.addCal = .next t) : ReadFrame (.avgRead ch n) last [] e t := by
  rcases avgReadLoop_next h with ⟨_, rfl⟩ | ⟨_, _, rfl⟩
  · constructor <;> simp [hl]
  · constructor <;> simp [hl]

theorem afterShiftIn_frame (hl : last) (h : afterShiftIn o e = .next t) : ReadFrame o last [] e t := by
  cases o with
  | alone =>
    cases h
    exact .place ..
  | readRaw ch =>
    cases h
    exact .place ..
  | readCal ch =>
    obtain ⟨r, rfl⟩ := afterShiftIn_readCal_next h
    exact (ReadFrame.calibrated hl r).trans (.place ..)
  | calibrate ch n => exact calibrate_turn_frame hl h
  | avgRead ch n =>
    obtain ⟨v, _, _, h⟩ := afterShiftIn_avgRead_next h
    exact (ReadFrame.calibrated hl _).trans (avgRead_turn_frame hl h)

/-- The end of the frame: the sample is taken, and used by the operation. -/
theorem sample_used_frame (hl : last) (h : afterShiftIn o e.takeSample = .next t) :
    ReadFrame o last [] e t :=
  (ReadFrame.takeSample hl).trans (afterShiftIn_frame hl h)

/-- SHIFTIN moves a register of the frame only at its last call (R29, R127). -/
theorem shiftInStep_frame {call : ShiftInCall} (hs : e.seq = .shiftIn call o)
    (h : shiftInStep call o (afterShiftIn o) e = .next t) :
    ∃ ev, ReadFrame o (LastCall o e) [ev] e t := by
  cases call with
  | poll =>
    rcases shiftInStep_poll_next h with rfl | rfl
    · exact ⟨_, .pinRead⟩
    · exact ⟨_, ReadFrame.pinRead.trans (.place ..)⟩
  | rise =>
    cases h
    exact ⟨_, (ReadFrame.pinWrite .high).trans (.place ..)⟩
  | sample =>
    cases h
    exact ⟨_, ReadFrame.pinRead.trans (.place ..)⟩
  | fall =>
    refine ⟨_, (ReadFrame.pinWrite .low).trans ?_⟩
    rcases afterSample_cases h with ⟨_, h⟩ | ⟨_, _, h⟩ | ⟨hb, h0, h⟩
    · cases h
      exact .place ..
    · cases h
      exact .place ..
    · exact sample_used_frame (.inr ⟨h0, hs, hb.trans h0⟩) h.symm
  | plainRise =>
    cases h
    exact ⟨_, (ReadFrame.pinWrite .high).trans (.place ..)⟩
  | plainFall =>
    refine ⟨_, (ReadFrame.pinWrite .low).trans ?_⟩
    rcases afterPlain_cases h with ⟨_, h⟩ | ⟨hb, h⟩
    · cases h
      exact .place ..
    · exact sample_used_frame (.inl ⟨hs, hb⟩) h.symm

/-! ## The engine's step, by the operation in progress -/

theorem engineStep_construct {call : ConstructCall} (hs : e.seq = .construct call) :
    engineStep e = .next (constructStep call e) := by
  simp only [engineStep, hs]

theorem engineStep_teardown {call : TeardownCall} (hs : e.seq = .teardown call) :
    engineStep e = .next (teardownStep call e) := by
  simp only [engineStep, hs]

theorem engineStep_select {call : SelectCall} (hs : e.seq = .select call o) :
    engineStep e = selectStep call o (afterSelect o) e := by
  simp only [engineStep, hs]

theorem engineStep_shiftIn {call : ShiftInCall} (hs : e.seq = .shiftIn call o) :
    engineStep e = shiftInStep call o (afterShiftIn o) e := by
  simp only [engineStep, hs]

/-- What the engine's step leads to, by the operation it belongs to. -/
theorem engineStep_cases (hb : e.seq ≠ .idle) (h : engineStep e = .next t) :
    (∃ call, e.seq = .construct call ∧ t = constructStep call e) ∨
    (∃ call, e.seq = .teardown call ∧ t = teardownStep call e) ∨
    (∃ call o, e.seq = .select call o ∧ selectStep call o (afterSelect o) e = .next t) ∨
    (∃ call o, e.seq = .shiftIn call o ∧ shiftInStep call o (afterShiftIn o) e = .next t) := by
  cases hs : e.seq with
  | idle => exact absurd hs hb
  | construct call =>
    rw [engineStep_construct hs] at h
    cases h
    exact .inl ⟨call, rfl, rfl⟩
  | teardown call =>
    rw [engineStep_teardown hs] at h
    cases h
    exact .inr (.inl ⟨call, rfl, rfl⟩)
  | select call o =>
    rw [engineStep_select hs] at h
    exact .inr (.inr (.inl ⟨call, o, rfl, h⟩))
  | shiftIn call o =>
    rw [engineStep_shiftIn hs] at h
    exact .inr (.inr (.inr ⟨call, o, rfl, h⟩))

/-- The frame of a step of a read, whichever of its two procedures the step is in. -/
theorem read_step_frame
    (hs : (∃ c, e.seq = .select c o) ∨ (∃ c, e.seq = .shiftIn c o)) (h : engineStep e = .next t) :
    ∃ ev, ReadFrame o (LastCall o e) [ev] e t := by
  rcases hs with ⟨c, hs⟩ | ⟨c, hs⟩
  · rw [engineStep_select hs] at h
    exact selectStep_frame h
  · rw [engineStep_shiftIn hs] at h
    exact shiftInStep_frame hs h

/-! ## The statements -/

/-- Settles O9, by the operation the step belongs to. -/
theorem oneCallPerEngineStep : Obligations.OneCallPerEngineStep := by
  unfold Obligations.OneCallPerEngineStep
  intro p e t hb h
  rcases engineStep_cases hb (engineStep_of_step hb h) with
    ⟨call, _, rfl⟩ | ⟨call, _, rfl⟩ | ⟨call, o, _, h⟩ | ⟨call, o, hs, h⟩
  · exact ⟨constructStep_event call, constructStep_program call⟩
  · exact ⟨teardownStep_event call, teardownStep_program call⟩
  · obtain ⟨ev, hf⟩ := selectStep_frame (last := False) h
    exact ⟨⟨ev, hf.trace⟩, hf.program⟩
  · obtain ⟨ev, hf⟩ := shiftInStep_frame hs h
    exact ⟨⟨ev, hf.trace⟩, hf.program⟩

/-- A command that leaves a LIVE engine leaves its pins: CONSTRUCT, which writes them, is refused. -/
theorem Issued.pins {i : Instr} (h : Issued e i t) (hlive : e.life = .live) :
    t.pinData = e.pinData ∧ t.pinClock = e.pinClock := by
  cases h with
  | construct _ _ hn => exact absurd hlive hn
  | setGain ch g =>
    obtain ⟨_, _, heq⟩ := offerGain_frame ch g e
    rw [heq]
    exact ⟨rfl, rfl⟩
  | _ => exact ⟨rfl, rfl⟩

/-- Settles O20: no step but CONSTRUCT's issue, which LIFE excludes, and TEARDOWN's last, which leaves
the engine DEAD, writes a pin register. -/
theorem pinsAreImmutableWhileLive : Obligations.PinsAreImmutableWhileLive := by
  unfold Obligations.PinsAreImmutableWhileLive
  intro p e t h he ht
  rcases step_next_cases h with ⟨hb, h⟩ | ⟨_, rfl⟩ | ⟨w, rest, i, _, _, _, h⟩
  · rcases engineStep_cases hb h with
      ⟨call, _, rfl⟩ | ⟨call, _, rfl⟩ | ⟨call, o, _, h⟩ | ⟨call, o, hs, h⟩
    · exact ⟨constructStep_pinData call, constructStep_pinClock call⟩
    · exact teardownStep_pins call ht
    · obtain ⟨ev, hf⟩ := selectStep_frame (last := False) h
      exact ⟨hf.pinData, hf.pinClock⟩
    · obtain ⟨ev, hf⟩ := shiftInStep_frame hs h
      exact ⟨hf.pinData, hf.pinClock⟩
  · exact ⟨rfl, rfl⟩
  · exact h.pins he

/-- Settles O40: the frame of a step of a read, read off field by field. -/
theorem readsLeaveConfigurationAlone : Obligations.ReadsLeaveConfigurationAlone := by
  unfold Obligations.ReadsLeaveConfigurationAlone
  intro p e t o hs h
  have hb : e.seq ≠ .idle := by
    rcases hs with ⟨c, hs⟩ | ⟨c, hs⟩ <;> simp [hs]
  obtain ⟨ev, hf⟩ := read_step_frame hs (engineStep_of_step hb h)
  refine ⟨hf.pinData, hf.pinClock, hf.gainA, hf.gainB, hf.life, hf.dirData, hf.dirClock,
    fun ho => hf.offsetA ?_, fun ho => hf.offsetB ?_,
    fun hl => ⟨hf.offsetA (hl ·.1), hf.offsetB (hl ·.1), hf.result hl⟩⟩
  · rintro ⟨_, n, rfl⟩
    exact ho n rfl
  · rintro ⟨_, n, rfl⟩
    exact ho n rfl

/-- Outside SHIFTIN nothing writes `ACC` or `RESULT` (R30, R33). -/
theorem step_acc_result (h : step ⟨p, e⟩ = .next ⟨p, t⟩) (hs : ∀ c o, e.seq ≠ .shiftIn c o) :
    t.acc = e.acc ∧ t.result = e.result := by
  rcases step_next_cases h with ⟨hb, h⟩ | ⟨_, rfl⟩ | ⟨w, rest, i, _, _, _, h⟩
  · rcases engineStep_cases hb h with
      ⟨call, _, rfl⟩ | ⟨call, _, rfl⟩ | ⟨call, o, _, h⟩ | ⟨call, o, hs', _⟩
    · exact ⟨constructStep_acc call, constructStep_result call⟩
    · exact ⟨teardownStep_acc call, teardownStep_result call⟩
    · obtain ⟨ev, hf⟩ := selectStep_frame (last := False) h
      exact ⟨selectStep_acc h, hf.result id⟩
    · exact absurd hs' (hs call o)
  · exact ⟨rfl, rfl⟩
  · cases h with
    | setGain ch g =>
      obtain ⟨_, _, heq⟩ := offerGain_frame ch g { e with program := rest }
      rw [heq]
      exact ⟨rfl, rfl⟩
    | _ => exact ⟨rfl, rfl⟩

/-- The engine's own step writes `SUM` only in CALIBRATE's SHIFTIN and `FSUM` only in AVGREAD's (R31,
R32). -/
theorem engineStep_sums (hb : e.seq ≠ .idle) (h : engineStep e = .next t) :
    ((∀ c ch n, e.seq ≠ .shiftIn c (.calibrate ch n)) → t.sum = e.sum) ∧
    ((∀ c ch n, e.seq ≠ .shiftIn c (.avgRead ch n)) → t.fsum = e.fsum) := by
  rcases engineStep_cases hb h with
    ⟨call, _, rfl⟩ | ⟨call, _, rfl⟩ | ⟨call, o, _, h⟩ | ⟨call, o, hs, h⟩
  · exact ⟨fun _ => constructStep_sum call, fun _ => constructStep_fsum call⟩
  · exact ⟨fun _ => teardownStep_sum call, fun _ => teardownStep_fsum call⟩
  · obtain ⟨ev, hf⟩ := selectStep_frame (last := False) h
    exact ⟨fun _ => hf.sum (·.1), fun _ => hf.fsum (·.1)⟩
  · obtain ⟨ev, hf⟩ := shiftInStep_frame hs h
    refine ⟨fun ho => hf.sum ?_, fun ho => hf.fsum ?_⟩
    · rintro ⟨_, ch, n, rfl⟩
      exact ho call ch n hs
    · rintro ⟨_, ch, n, rfl⟩
      exact ho call ch n hs

/-- Of the commands only CALIBRATE writes `SUM` when it is issued (R31). -/
theorem Issued.sum {i : Instr} (h : Issued e i t) : t.sum = e.sum ∨ ∃ ch n, i = .calibrate ch n := by
  cases h with
  | calibrate ch k => exact .inr ⟨ch, k, rfl⟩
  | setGain ch g =>
    obtain ⟨_, _, heq⟩ := offerGain_frame ch g e
    rw [heq]
    exact .inl rfl
  | _ => exact .inl rfl

/-- Of the commands only AVGREAD writes `FSUM` when it is issued (R32). -/
theorem Issued.fsum {i : Instr} (h : Issued e i t) : t.fsum = e.fsum ∨ ∃ ch n, i = .avgRead ch n := by
  cases h with
  | avgRead ch k => exact .inr ⟨ch, k, rfl⟩
  | setGain ch g =>
    obtain ⟨_, _, heq⟩ := offerGain_frame ch g e
    rw [heq]
    exact .inl rfl
  | _ => exact .inl rfl

/-- Settles O41: each clause by the kind of the step. -/
theorem datapathRegistersChangeOnlyInTheirSteps :
    Obligations.DatapathRegistersChangeOnlyInTheirSteps := by
  unfold Obligations.DatapathRegistersChangeOnlyInTheirSteps
  intro p e t h
  refine ⟨step_acc_result h, fun ho hne => ?_, fun ho hne => ?_⟩
  · rcases step_next_cases h with ⟨hb, h⟩ | ⟨_, rfl⟩ | ⟨w, rest, i, hi, hp, hd, h⟩
    · exact absurd ((engineStep_sums hb h).1 ho) hne
    · exact absurd rfl hne
    · rcases h.sum with heq | ⟨ch, n, rfl⟩
      · exact absurd heq hne
      · exact ⟨hi, w, rest, ch, n, hp, hd⟩
  · rcases step_next_cases h with ⟨hb, h⟩ | ⟨_, rfl⟩ | ⟨w, rest, i, hi, hp, hd, h⟩
    · exact absurd ((engineStep_sums hb h).2 ho) hne
    · exact absurd rfl hne
    · rcases h.fsum with heq | ⟨ch, n, rfl⟩
      · exact absurd heq hne
      · exact ⟨hi, w, rest, ch, n, hp, hd⟩

end Sys2Proof.Machine
end

section
/-! # The numbers of the invariant

The range of a raw sample and of its calibrated result, and that sums and means of them fit their
registers (spec 40 R131; 42 R155; 10 R31, R32; 43 R163). -/

namespace Sys2Proof.Machine

variable {p : Params}

/-! ## The raw sample -/

theorem lowestBit_lt_sampleBits (p : Params) : p.lowestBit < p.sampleBits := by
  have := lowestBit_add p
  have := p.sampledSlots
  omega

theorem rawMax_nonneg (p : Params) : 0 ≤ rawMax p := by
  have h : (2 : Int) ^ p.lowestBit ≤ 2 ^ (p.sampleBits - 1) :=
    pow_le_pow_right₀ (by decide) (by have := lowestBit_lt_sampleBits p; omega)
  simp only [rawMax]
  omega

theorem rawMax_lt (p : Params) : rawMax p < 2 ^ (p.sampleBits - 1) := by
  have : (0 : Int) < 2 ^ p.lowestBit := by positivity
  simp only [rawMax]
  omega

theorem rawRange_zero (p : Params) : RawRange p 0 :=
  ⟨by have : (0 : Int) < 2 ^ (p.sampleBits - 1) := by positivity
      omega,
   rawMax_nonneg p⟩

/-- A pattern is a multiple of the weight of the lowest sampled bit, as a signed number too. -/
theorem dvd_pattern_toInt {b : p.Pattern} (h : 2 ^ p.lowestBit ∣ b.toNat) :
    (2 ^ p.lowestBit : Int) ∣ b.toInt := by
  have hn : (2 ^ p.lowestBit : Int) ∣ b.toNat := by exact_mod_cast h
  have hw : (2 ^ p.lowestBit : Int) ∣ 2 ^ p.sampleBits :=
    pow_dvd_pow 2 (lowestBit_lt_sampleBits p).le
  rw [BitVec.toInt_eq_toNat_cond]
  split
  · exact hn
  · exact_mod_cast hn.sub hw

/-- A pattern whose bits below the lowest sampled one are 0 is a raw sample (R131). -/
theorem pattern_rawRange {b : p.Pattern} (h : 2 ^ p.lowestBit ∣ b.toNat) : RawRange p b.toInt := by
  have hs := lowestBit_lt_sampleBits p
  have hlt : b.toInt < 2 ^ (p.sampleBits - 1) := BitVec.toInt_lt
  have hw : (2 ^ p.lowestBit : Int) ∣ 2 ^ (p.sampleBits - 1) := pow_dvd_pow 2 (by omega)
  have hgap := Int.le_of_dvd (by omega) (hw.sub (dvd_pattern_toInt h))
  refine ⟨BitVec.le_toInt b, ?_⟩
  simp only [rawMax]
  omega

/-- The sign extension of an accumulator that holds a sample and nothing else is a raw sample (R130,
R131). -/
theorem signExtend_rawRange {acc : p.Container} (hlt : acc.toNat < 2 ^ p.sampleBits)
    (hdvd : 2 ^ p.lowestBit ∣ acc.toNat) : RawRange p (signExtend acc).toInt := by
  have hw := sampleBits_lt_accW p
  have hb : (acc.setWidth p.sampleBits).toNat = acc.toNat := by
    rw [BitVec.toNat_setWidth, Nat.mod_eq_of_lt hlt]
  have hacc : acc = (acc.setWidth p.sampleBits).setWidth p.accW := by
    apply BitVec.eq_of_toNat_eq
    rw [BitVec.toNat_setWidth, hb, Nat.mod_eq_of_lt acc.isLt]
  rw [hacc, signExtend_zeroExtend, sext, BitVec.toInt_signExtend_of_le hw.le]
  exact pattern_rawRange (by rwa [hb])

/-! ## The calibrated result -/

theorem calMax_nonneg (p : Params) : 0 ≤ calMax p := by
  have h : (2 : Int) ^ p.lowestBit ≤ 2 ^ p.sampleBits :=
    pow_le_pow_right₀ (by decide) (lowestBit_lt_sampleBits p).le
  exact mul_nonneg (by omega) (by positivity)

theorem calMax_lt (p : Params) : calMax p < 2 ^ (p.sampleBits + p.fracBits) := by
  have h : (0 : Int) < 2 ^ p.lowestBit := by positivity
  rw [pow_add]
  exact mul_lt_mul_of_pos_right (by omega) (by positivity)

/-- Two raw samples are less than the width of their range apart. -/
theorem abs_sub_le_of_rawRange {raw off : Int} (hr : RawRange p raw) (ho : RawRange p off) :
    |raw - off| ≤ 2 ^ p.sampleBits - 2 ^ p.lowestBit := by
  obtain ⟨hr1, hr2⟩ := hr
  obtain ⟨ho1, ho2⟩ := ho
  have hw : (2 : Int) ^ p.sampleBits = 2 * 2 ^ (p.sampleBits - 1) := by
    rw [← pow_succ', Nat.sub_add_cancel (one_le_sampleBits p)]
  simp only [rawMax] at hr2 ho2
  rw [hw, abs_le]
  omega

/-- The bound of a calibrated result, whatever the gain (R155). -/
theorem abs_fixedPoint_le {raw off : Int} (hr : RawRange p raw) (ho : RawRange p off) (ch : Channel)
    (g : GainSetting) : |fixedPoint p ch g raw off| ≤ calMax p := by
  have hscale : ((scale p ch g : Nat) : Int) ≤ 2 ^ p.fracBits := by
    exact_mod_cast Nat.div_le_self ..
  rw [fixedPoint, abs_mul, Nat.abs_cast]
  exact mul_le_mul (abs_sub_le_of_rawRange hr ho) hscale (Int.natCast_nonneg _)
    ((abs_nonneg _).trans (abs_sub_le_of_rawRange hr ho))

/-- A result that fits is stored without loss (R156). -/
theorem toInt_ofInt_of_fits {v : Int} (h : v.natAbs < 2 ^ (p.accW - 1)) :
    (BitVec.ofInt p.accW v).toInt = v := by
  obtain ⟨hlo, hhi⟩ : -2 ^ (p.accW - 1) < v ∧ v < 2 ^ (p.accW - 1) :=
    abs_lt.1 (by rw [Int.abs_eq_natAbs]; exact_mod_cast h)
  exact BitVec.toInt_ofInt_eq_self (by have := sampleBits_lt_accW p; omega) hlo.le hhi

/-! ## Sums -/

/-- A sum of at most as many raw samples as a count can say fits `SUM` (R31). -/
theorem rawSum_fits {k : Nat} {v : Int} (hk : k ≤ 2 ^ p.cntW)
    (hlo : k * -2 ^ (p.sampleBits - 1) ≤ v) (hhi : v ≤ k * rawMax p) (hpos : 0 < k) :
    -2 ^ (p.sumW - 1) ≤ v ∧ v < 2 ^ (p.sumW - 1) := by
  have hs := one_le_sampleBits p
  have hsum := p.sumFits
  have hk' : (k : Int) ≤ 2 ^ p.cntW := by exact_mod_cast hk
  have hw : (2 : Int) ^ p.cntW * 2 ^ (p.sampleBits - 1) ≤ 2 ^ (p.sumW - 1) := by
    rw [← pow_add]
    exact pow_le_pow_right₀ (by decide) (by omega)
  have hmul : (k : Int) * 2 ^ (p.sampleBits - 1) ≤ 2 ^ p.cntW * 2 ^ (p.sampleBits - 1) :=
    mul_le_mul_of_nonneg_right hk' (by positivity)
  have hmax : (k : Int) * rawMax p < k * 2 ^ (p.sampleBits - 1) :=
    mul_lt_mul_of_pos_left (rawMax_lt p) (by exact_mod_cast hpos)
  rw [mul_neg] at hlo
  omega

/-- A sum of at most as many calibrated results as a count can say fits `FSUM` (R32). -/
theorem calSum_fits {k : Nat} {v : Int} (hk : k ≤ 2 ^ p.cntW) (hv : |v| ≤ k * calMax p) :
    -2 ^ (64 - 1) ≤ v ∧ v < 2 ^ (64 - 1) := by
  have hk' : (k : Int) ≤ 2 ^ p.cntW := by exact_mod_cast hk
  have hw : (2 : Int) ^ p.cntW * 2 ^ (p.sampleBits + p.fracBits) ≤ 2 ^ 63 := by
    rw [← pow_add]
    exact pow_le_pow_right₀ (by decide) (by have := p.fsumFits; omega)
  have hmul : (k : Int) * calMax p ≤ 2 ^ p.cntW * calMax p :=
    mul_le_mul_of_nonneg_right hk' (calMax_nonneg p)
  have hmax : (2 : Int) ^ p.cntW * calMax p < 2 ^ p.cntW * 2 ^ (p.sampleBits + p.fracBits) :=
    mul_lt_mul_of_pos_left (calMax_lt p) (by positivity)
  obtain ⟨h1, h2⟩ := abs_le.1 hv
  omega

/-! ## Means -/

/-- The truncated mean of a sum of raw samples is in their range (R161, R163). -/
theorem truncdiv_rawRange {n : Nat} {v : Int} (hn : 0 < n) (hlo : n * -2 ^ (p.sampleBits - 1) ≤ v)
    (hhi : v ≤ n * rawMax p) : RawRange p (truncdiv v n) := by
  have hn' : (0 : Int) < n := by exact_mod_cast hn
  obtain ⟨hz1, hz2⟩ := rawRange_zero p
  rcases le_total 0 v with hv | hv
  · refine ⟨hz1.trans (Int.tdiv_nonneg hv hn'.le), ?_⟩
    rw [truncdiv, Int.tdiv_eq_ediv_of_nonneg hv]
    exact Int.ediv_le_of_le_mul hn' (by rwa [mul_comm])
  · have hneg : truncdiv v n = -(-v / n) := by
      rw [← Int.tdiv_eq_ediv_of_nonneg (by omega), Int.neg_tdiv, neg_neg]
    have hle : -v / n ≤ 2 ^ (p.sampleBits - 1) :=
      Int.ediv_le_of_le_mul hn' (by rw [mul_neg] at hlo; rw [mul_comm]; omega)
    have hnn : 0 ≤ -v / (n : Int) := Int.ediv_nonneg (by omega) hn'.le
    rw [hneg]
    exact ⟨by omega, by omega⟩

/-- A value in the range of raw samples is stored without loss (R163). -/
theorem fitted_rawRange {v : Int} (h : RawRange p v) : (fitted p.accW v).toInt = v := by
  obtain ⟨h1, h2⟩ := h
  have hw := sampleBits_lt_accW p
  have hle : (2 : Int) ^ (p.sampleBits - 1) ≤ 2 ^ (p.accW - 1) :=
    pow_le_pow_right₀ (by decide) (by omega)
  exact fitted_toInt (by omega) ⟨by omega, h2.trans_lt ((rawMax_lt p).trans_le hle)⟩

end Sys2Proof.Machine
end

section
/-! # The invariant of the reachable states (spec 10 R28, R30 to R32, R42)

It holds at power-on, and a step keeps it. A step of a read is its frame, from which `ReadInv` carries over,
and the place it leads to; each function of the model that ends a step has its own lemma, which says that
the state it leads to meets the invariant. -/

namespace Sys2Proof.Machine

variable {p : Params} {o : Owner p} {e t : Engine p}

/-! ## The invariant at each place -/

theorem inv_idle (hs : e.seq = .idle) : e.Inv ↔ IdleInv e := by
  simp only [Engine.Inv, hs]

theorem inv_construct (call : ConstructCall) (hs : e.seq = .construct call) :
    e.Inv ↔ e.life ≠ .live ∧ e.pinData ≠ e.pinClock ∧ ConstructInv call e := by
  simp only [Engine.Inv, hs]

theorem inv_teardown_dirData (hs : e.seq = .teardown .dirData) :
    e.Inv ↔ e.life = .live ∧ Configured e ∧ e.clkOut = .low := by
  simp only [Engine.Inv, hs]

theorem inv_teardown_dirClock (hs : e.seq = .teardown .dirClock) :
    e.Inv ↔ e.life = .live ∧ e.dirData = .input ∧ e.clkOut = .low := by
  simp only [Engine.Inv, hs]

theorem idleInv_of_live (hl : e.life = .live) : IdleInv e ↔ Configured e ∧ e.clkOut = .low := by
  simp only [IdleInv, hl]

/-- A finished operation of a LIVE engine (R28, R42). -/
theorem inv_of_idle_live (hs : e.seq = .idle) (hl : e.life = .live) (hc : Configured e)
    (hk : e.clkOut = .low) : e.Inv :=
  (inv_idle hs).2 ((idleInv_of_live hl).2 ⟨hc, hk⟩)

/-- What holds at every call of SELECT and SHIFTIN, for the operation they belong to. -/
structure ReadInv (o : Owner p) (e : Engine p) : Prop where
  live : e.life = .live
  configured : Configured e
  owner : OwnerInv o e

theorem inv_select (call : SelectCall) (hs : e.seq = .select call o) :
    e.Inv ↔ ReadInv o e ∧ SelectInv call e := by
  simp only [Engine.Inv, hs]
  exact ⟨fun ⟨hl, hc, ho, hp⟩ => ⟨⟨hl, hc, ho⟩, hp⟩, fun ⟨⟨hl, hc, ho⟩, hp⟩ => ⟨hl, hc, ho, hp⟩⟩

theorem inv_shiftIn (call : ShiftInCall) (hs : e.seq = .shiftIn call o) :
    e.Inv ↔ ReadInv o e ∧ ShiftInInv call e := by
  simp only [Engine.Inv, hs]
  exact ⟨fun ⟨hl, hc, ho, hp⟩ => ⟨⟨hl, hc, ho⟩, hp⟩, fun ⟨⟨hl, hc, ho⟩, hp⟩ => ⟨hl, hc, ho, hp⟩⟩

/-- The frame of a step, before SHIFTIN's last call, carries what holds at every call. -/
theorem ReadInv.congr {evs : List (PinEvent p)} (h : ReadInv o e) (hf : ReadFrame o False evs e t) :
    ReadInv o t where
  live := hf.life.trans h.live
  configured := h.configured.congr hf.gainA hf.gainB (hf.offsetA (·.1)) (hf.offsetB (·.1))
    hf.pinData hf.pinClock hf.dirData hf.dirClock
  owner := h.owner.congr (hf.cnt id) (hf.sum (·.1)) (hf.fsum (·.1))

/-- An operation's SELECT begins with the clock LOW (R123, R124). -/
theorem beginSelect_inv {ch : Channel} (h : ReadInv o e) (hk : e.clkOut = .low) :
    (e.beginSelect ch o).Inv :=
  (inv_select .poll rfl).2 ⟨h.congr (.place ..), hk⟩

/-- So does its SHIFTIN (R123, R127). -/
theorem beginShiftIn_inv (h : ReadInv o e) (hk : e.clkOut = .low) : (e.beginShiftIn o).Inv :=
  (inv_shiftIn .poll rfl).2 ⟨h.congr (.place ..), hk⟩

/-! ## SELECT -/

theorem pulseLoop_inv (h : ReadInv o e) (hk : e.clkOut = .low)
    (ht : pulseLoop o (afterSelect o) e = .next t) : t.Inv := by
  have hr : ReadInv o t := h.congr (pulseLoop_frame ht)
  rcases pulseLoop_next ht with ⟨hp, rfl⟩ | ⟨_, _, rfl⟩ | ⟨_, _, rfl⟩
  · exact (inv_select .rise rfl).2 ⟨hr, hk, hp⟩
  · exact inv_of_idle_live rfl hr.live hr.configured hk
  · exact beginShiftIn_inv h hk

theorem selectStep_inv {call : SelectCall} (hs : e.seq = .select call o) (h : e.Inv)
    (ht : selectStep call o (afterSelect o) e = .next t) : t.Inv := by
  obtain ⟨hr, hp⟩ := (inv_select call hs).1 h
  cases call with
  | poll =>
    have hread : ReadInv o e.pinRead := hr.congr .pinRead
    have hlow : e.pinRead.clkOut = .low := (Engine.pinRead_clkOut e).trans hp
    rcases waitReady_next ht with ⟨_, rfl⟩ | ⟨_, ht⟩
    · exact (inv_select .poll (by simpa using hs)).2 ⟨hread, hlow⟩
    · exact pulseLoop_inv hread hlow ht
  | rise =>
    obtain ⟨_, hpcnt⟩ := hp
    cases ht
    exact (inv_select .fall rfl).2 ⟨hr.congr ((ReadFrame.pinWrite .high).trans (.place ..)), rfl, hpcnt⟩
  | fall => exact pulseLoop_inv (hr.congr ((ReadFrame.pinWrite .low).trans (.place ..))) rfl ht

/-! ## The accumulator of SHIFTIN -/

/-- One less, of a number that is not 0. -/
theorem toNat_sub_one {w : Nat} {x : BitVec w} (h : 1 ≤ x.toNat) : (x - 1).toNat = x.toNat - 1 := by
  have hw : 0 < w := by
    rcases Nat.eq_zero_or_pos w with rfl | hw
    · have := x.isLt
      omega
    · exact hw
  have h1 : (1 : BitVec w).toNat = 1 := BitVec.toNat_one hw
  rw [BitVec.toNat_sub_of_le (by rw [BitVec.le_def, h1]; exact h), h1]

/-- The loop starts at the sign bit with an empty accumulator (R127). -/
theorem clearAcc_sampleInv (o : Owner p) (e : Engine p) :
    SampleInv ((e.clearAcc o).bit.toNat + 1) (e.clearAcc o) := by
  have hl := lowestBit_lt_sampleBits p
  have hslots := p.slotIndex
  have hbit : (e.clearAcc o).bit.toNat = p.sampleBits - 1 := by
    rw [Engine.clearAcc_bit, BitVec.toNat_ofNat, Nat.mod_eq_of_lt (by omega)]
  refine ⟨by omega, by omega, ?_, ?_⟩ <;> simp

/-- ORing in the sample of bit `BIT` keeps the accumulator below the sample's width and a multiple of the
weight of that bit (R122, R30). -/
theorem orSample_sampleInv (l : Level) (h : SampleInv (e.bit.toNat + 1) e) :
    (orSample e.acc e.bit.toNat l).toNat < 2 ^ p.sampleBits ∧
      2 ^ e.bit.toNat ∣ (orSample e.acc e.bit.toNat l).toNat := by
  obtain ⟨_, hbit, hlt, hdvd⟩ := h
  have hw := sampleBits_lt_accW p
  rw [orSample_toNat l (by omega) hdvd]
  have hl : l.bit * 2 ^ e.bit.toNat < 2 ^ (e.bit.toNat + 1) := by
    have : 0 < 2 ^ e.bit.toNat := Nat.two_pow_pos _
    rw [pow_succ]
    cases l <;> simp only [Level.bit] <;> omega
  refine ⟨?_, (dvd_trans (pow_dvd_pow 2 (by omega)) hdvd).add (Dvd.intro_left _ rfl)⟩
  have hgap := Nat.le_of_dvd (by omega) (Nat.dvd_sub (pow_dvd_pow 2 hbit) hdvd)
  omega

/-! ## CALIBRATE's and AVGREAD's loops -/

/-- `SUM` is a sum of the raw samples read so far (R31). -/
def RawSumInv (n : p.Count) (e : Engine p) : Prop :=
  e.cnt.toNat ≤ n.toNat ∧
    (n.toNat - e.cnt.toNat : Int) * -2 ^ (p.sampleBits - 1) ≤ e.sum.toInt ∧
    e.sum.toInt ≤ (n.toNat - e.cnt.toNat : Int) * rawMax p

/-- `FSUM` is a sum of the calibrated results so far (R32). -/
def CalSumInv (n : p.Count) (e : Engine p) : Prop :=
  e.cnt.toNat ≤ n.toNat ∧ |e.fsum.toInt| ≤ (n.toNat - e.cnt.toNat : Int) * calMax p

theorem ownerInv_calibrate {ch : Channel} {n : p.Count} :
    OwnerInv (.calibrate ch n) e ↔ 1 ≤ e.cnt.toNat ∧ RawSumInv n e := Iff.rfl

theorem ownerInv_avgRead {ch : Channel} {n : p.Count} :
    OwnerInv (.avgRead ch n) e ↔ 1 ≤ e.cnt.toNat ∧ CalSumInv n e := Iff.rfl

theorem one_le_count {n : p.Count} (h : n ≠ 0) : 1 ≤ n.toNat :=
  Nat.one_le_iff_ne_zero.2 fun h0 => h (BitVec.eq_of_toNat_eq (by simpa using h0))

/-- A loop begins with an empty sum and all its reads to make (R160). -/
theorem ownerInv_calibrate_begin {ch : Channel} {n : p.Count} (hn : n ≠ 0) :
    OwnerInv (.calibrate ch n) { e with sum := 0, cnt := n } :=
  ⟨one_le_count hn, le_rfl, by simp, by simp⟩

/-- The same of AVGREAD (R170). -/
theorem ownerInv_avgRead_begin {ch : Channel} {n : p.Count} (hn : n ≠ 0) :
    OwnerInv (.avgRead ch n) { e with fsum := 0, cnt := n } :=
  ⟨one_le_count hn, le_rfl, by simp⟩

/-- One more raw sample is added without loss (R31, R160). -/
theorem addRaw_rawSumInv {n : p.Count} (h1 : 1 ≤ e.cnt.toNat) (hs : RawSumInv n e)
    (hr : RawRange p e.result.toInt) : RawSumInv n e.addRaw := by
  obtain ⟨hle, hlo, hhi⟩ := hs
  obtain ⟨hr1, hr2⟩ := hr
  have hcnt : e.addRaw.cnt.toNat = e.cnt.toNat - 1 := toNat_sub_one h1
  obtain ⟨k, hk⟩ := Nat.exists_eq_add_of_le hle
  have hk0 : (n.toNat - e.cnt.toNat : Int) = k := by omega
  have hk1 : (n.toNat - e.addRaw.cnt.toNat : Int) = ((k + 1 : Nat) : Int) := by omega
  have hlo' : ((k + 1 : Nat) : Int) * -2 ^ (p.sampleBits - 1) ≤ e.sum.toInt + e.result.toInt := by
    rw [hk0] at hlo
    rw [Nat.cast_succ, add_mul, one_mul]
    omega
  have hhi' : e.sum.toInt + e.result.toInt ≤ ((k + 1 : Nat) : Int) * rawMax p := by
    rw [hk0] at hhi
    rw [Nat.cast_succ, add_mul, one_mul]
    omega
  have hsum : e.addRaw.sum.toInt = e.sum.toInt + e.result.toInt :=
    fitted_toInt (by have := p.sumFits; have := one_le_sampleBits p; omega)
      (rawSum_fits (by have := n.isLt; omega) hlo' hhi' k.succ_pos)
  exact ⟨by omega, by rwa [hk1, hsum], by rwa [hk1, hsum]⟩

/-- One more calibrated result is added without loss (R32, R170). -/
theorem addCal_calSumInv {n : p.Count} (h1 : 1 ≤ e.cnt.toNat) (hs : CalSumInv n e)
    (hr : |e.result.toInt| ≤ calMax p) : CalSumInv n e.addCal := by
  obtain ⟨hle, hsum⟩ := hs
  have hcnt : e.addCal.cnt.toNat = e.cnt.toNat - 1 := toNat_sub_one h1
  obtain ⟨k, hk⟩ := Nat.exists_eq_add_of_le hle
  have hk0 : (n.toNat - e.cnt.toNat : Int) = k := by omega
  have hk1 : (n.toNat - e.addCal.cnt.toNat : Int) = ((k + 1 : Nat) : Int) := by omega
  have hsum' : |e.fsum.toInt + e.result.toInt| ≤ ((k + 1 : Nat) : Int) * calMax p := by
    rw [hk0] at hsum
    rw [Nat.cast_succ, add_mul, one_mul]
    exact (abs_add_le _ _).trans (add_le_add hsum hr)
  have hfsum : e.addCal.fsum.toInt = e.fsum.toInt + e.result.toInt :=
    fitted_toInt (by decide) (calSum_fits (by have := n.isLt; omega) hsum')
  exact ⟨by omega, by rwa [hk1, hfsum]⟩

/-- The mean of all the reads is an offset (R160, R163). -/
theorem storeMean_configured {ch : Channel} {n : p.Count} (h : Configured e) (hn : n ≠ 0)
    (hc : e.cnt = 0) (hs : RawSumInv n e) : Configured (e.storeMean ch n) := by
  obtain ⟨_, hlo, hhi⟩ := hs
  have hc0 : e.cnt.toNat = 0 := by simp [hc]
  rw [hc0, Nat.cast_zero, sub_zero] at hlo hhi
  have hmean := truncdiv_rawRange (one_le_count hn) hlo hhi
  have hfit : RawRange p (fitted p.accW (truncdiv e.sum.toInt n.toNat)).toInt := by
    rwa [fitted_rawRange hmean]
  cases ch with
  | a => exact { h with offsetA := hfit }
  | b => exact { h with offsetB := hfit }

@[simp] theorem Engine.storeMean_life {ch : Channel} {n : p.Count} : (e.storeMean ch n).life = e.life := by
  cases ch <;> rfl

@[simp] theorem Engine.storeMean_clkOut {ch : Channel} {n : p.Count} :
    (e.storeMean ch n).clkOut = e.clkOut := by
  cases ch <;> rfl

/-- Another read, or the mean into the offset (R160). -/
theorem calibrateLoop_inv {ch : Channel} {n : p.Count} (hl : e.life = .live) (hc : Configured e)
    (hk : e.clkOut = .low) (hs : RawSumInv n e) (ht : calibrateLoop ch n e = .next t) : t.Inv := by
  rcases calibrateLoop_next ht with ⟨hcnt, rfl⟩ | ⟨hcnt, hn, rfl⟩
  · exact beginSelect_inv ⟨hl, hc, ownerInv_calibrate.2 ⟨one_le_count hcnt, hs⟩⟩ hk
  · have hmean : Configured (e.storeMean ch n) := storeMean_configured hc hn hcnt hs
    refine inv_of_idle_live rfl ?_ (hmean.congr ?_ ?_ ?_ ?_ ?_ ?_ ?_ ?_) ?_ <;>
      simp [hl, hk]

/-- Another read, or the mean into `RESULT` (R170). -/
theorem avgReadLoop_inv {ch : Channel} {n : p.Count} (hl : e.life = .live) (hc : Configured e)
    (hk : e.clkOut = .low) (hs : CalSumInv n e) (ht : avgReadLoop ch n e = .next t) : t.Inv := by
  rcases avgReadLoop_next ht with ⟨hcnt, rfl⟩ | ⟨_, _, rfl⟩
  · exact beginSelect_inv ⟨hl, hc, ownerInv_avgRead.2 ⟨one_le_count hcnt, hs⟩⟩ hk
  · refine inv_of_idle_live rfl ?_ (hc.congr ?_ ?_ ?_ ?_ ?_ ?_ ?_ ?_) ?_ <;> simp [hl, hk]

/-! ## SHIFTIN -/

theorem Configured.offsetOf (h : Configured e) (ch : Channel) : RawRange p (e.offsetOf ch).toInt := by
  cases ch with
  | a => exact h.offsetA
  | b => exact h.offsetB

/-- What follows a raw sample, for each operation (R127, R150, R152, R160, R170). -/
theorem afterShiftIn_inv (h : ReadInv o e) (hk : e.clkOut = .low) (hr : RawRange p e.result.toInt)
    (ht : afterShiftIn o e = .next t) : t.Inv := by
  obtain ⟨hl, hc, ho⟩ := h
  cases o with
  | alone =>
    cases ht
    exact inv_of_idle_live rfl hl { hc with } hk
  | readRaw ch =>
    cases ht
    exact inv_of_idle_live rfl hl { hc with } hk
  | readCal ch =>
    obtain ⟨r, rfl⟩ := afterShiftIn_readCal_next ht
    exact inv_of_idle_live rfl hl { hc with } hk
  | calibrate ch n =>
    obtain ⟨hcnt, hs⟩ := ownerInv_calibrate.1 ho
    exact calibrateLoop_inv (e := e.addRaw) hl { hc with } hk (addRaw_rawSumInv hcnt hs hr) ht
  | avgRead ch n =>
    obtain ⟨hcnt, hs⟩ := ownerInv_avgRead.1 ho
    obtain ⟨v, hv, hfits, ht⟩ := afterShiftIn_avgRead_next ht
    have hresult : |(BitVec.ofInt p.accW v).toInt| ≤ calMax p := by
      rw [toInt_ofInt_of_fits hfits, hv]
      exact abs_fixedPoint_le hr (hc.offsetOf ch) ch e.gainA
    have hsum := addCal_calSumInv (e := { e with result := BitVec.ofInt p.accW v }) hcnt hs hresult
    exact avgReadLoop_inv (e := Engine.addCal { e with result := _ }) hl { hc with } hk hsum ht

/-- The end of a frame: a raw sample goes to `RESULT`, and the operation uses it (R127, R130). -/
theorem sample_used_inv (h : ReadInv o e) (hk : e.clkOut = .low) (hlt : e.acc.toNat < 2 ^ p.sampleBits)
    (hdvd : 2 ^ p.lowestBit ∣ e.acc.toNat) (ht : afterShiftIn o e.takeSample = .next t) : t.Inv :=
  afterShiftIn_inv (e := e.takeSample) ⟨h.live, { h.configured with }, h.owner.congr rfl rfl rfl⟩ hk
    (signExtend_rawRange hlt hdvd) ht

theorem afterSample_inv (h : ReadInv o e) (hk : e.clkOut = .low) (hp : SampleInv e.bit.toNat e)
    (ht : afterSample o (afterShiftIn o) e = .next t) : t.Inv := by
  obtain ⟨hlow, hbit, hlt, hdvd⟩ := hp
  rcases afterSample_cases ht with ⟨hb, ht⟩ | ⟨hb, h0, ht⟩ | ⟨hb, _, ht⟩
  · cases ht
    have hsub : (e.bit - 1).toNat = e.bit.toNat - 1 := toNat_sub_one (by omega)
    refine (inv_shiftIn .rise rfl).2 ⟨h.congr (.place ..), hk, ?_⟩
    simp only [SampleInv, hsub]
    exact ⟨by omega, by omega, hlt, by rwa [Nat.sub_add_cancel (by omega)]⟩
  · cases ht
    exact (inv_shiftIn .plainRise rfl).2
      ⟨h.congr (.place ..), hk, Nat.one_le_iff_ne_zero.2 (hb.trans_ne h0), hb.le, hlt, hb ▸ hdvd⟩
  · exact sample_used_inv h hk hlt (hb ▸ hdvd) ht.symm

theorem afterPlain_inv (h : ReadInv o e) (hk : e.clkOut = .low) (hp : PlainInv e)
    (ht : afterPlain o (afterShiftIn o) e = .next t) : t.Inv := by
  obtain ⟨hpos, hlow, hlt, hdvd⟩ := hp
  rcases afterPlain_cases ht with ⟨hb, ht⟩ | ⟨_, ht⟩
  · cases ht
    have hsub : (e.bit - 1).toNat = e.bit.toNat - 1 := toNat_sub_one hpos
    refine (inv_shiftIn .plainRise rfl).2 ⟨h.congr (.place ..), hk, ?_⟩
    simp only [PlainInv, hsub]
    exact ⟨by omega, by omega, hlt, hdvd⟩
  · exact sample_used_inv h hk hlt hdvd ht.symm

theorem shiftInStep_inv {call : ShiftInCall} (hs : e.seq = .shiftIn call o) (h : e.Inv)
    (ht : shiftInStep call o (afterShiftIn o) e = .next t) : t.Inv := by
  obtain ⟨hr, hp⟩ := (inv_shiftIn call hs).1 h
  have hrise : ∀ seq, ReadInv o { e.pinWrite .high with seq := seq } := fun _ =>
    hr.congr ((ReadFrame.pinWrite .high).trans (.place ..))
  cases call with
  | poll =>
    have hlow : e.pinRead.clkOut = .low := (Engine.pinRead_clkOut e).trans hp
    rcases shiftInStep_poll_next ht with rfl | rfl
    · exact (inv_shiftIn .poll (by simpa using hs)).2 ⟨hr.congr .pinRead, hlow⟩
    · exact (inv_shiftIn .rise rfl).2
        ⟨hr.congr (ReadFrame.pinRead.trans (.place ..)), hlow, clearAcc_sampleInv o _⟩
  | rise =>
    obtain ⟨_, hsample⟩ := hp
    cases ht
    exact (inv_shiftIn .sample rfl).2 ⟨hrise _, rfl, hsample⟩
  | sample =>
    obtain ⟨hhigh, hsample⟩ := hp
    obtain ⟨hlt, hdvd⟩ := orSample_sampleInv e.nextLevel hsample
    obtain ⟨hlow, hbit, _, _⟩ := hsample
    cases ht
    refine (inv_shiftIn .fall rfl).2 ⟨hr.congr (ReadFrame.pinRead.trans (.place ..)), ?_⟩
    simp only [ShiftInInv, SampleInv, Engine.pinRead_clkOut, Engine.pinRead_bit]
    exact ⟨hhigh, hlow, hbit, hlt, hdvd⟩
  | fall =>
    obtain ⟨_, hsample⟩ := hp
    exact afterSample_inv (hr.congr (.pinWrite .low)) rfl hsample ht
  | plainRise =>
    obtain ⟨_, hplain⟩ := hp
    cases ht
    exact (inv_shiftIn .plainFall rfl).2 ⟨hrise _, rfl, hplain⟩
  | plainFall =>
    obtain ⟨_, hplain⟩ := hp
    exact afterPlain_inv (hr.congr (.pinWrite .low)) rfl hplain ht

/-! ## CONSTRUCT and TEARDOWN -/

theorem constructStep_inv {call : ConstructCall} (hs : e.seq = .construct call) (h : e.Inv) :
    (constructStep call e).Inv := by
  obtain ⟨hl, hpins, hp⟩ := (inv_construct call hs).1 h
  cases call with
  | dirData => exact (inv_construct .dirClock rfl).2 ⟨hl, hpins, rfl⟩
  | dirClock => exact (inv_construct .rise rfl).2 ⟨hl, hpins, hp, rfl⟩
  | rise =>
    obtain ⟨hdata, hclock⟩ := hp
    exact (inv_construct .delay rfl).2 ⟨hl, hpins, hdata, hclock, rfl⟩
  | delay => exact (inv_construct .fall rfl).2 ⟨hl, hpins, hp⟩
  | fall =>
    obtain ⟨hdata, hclock, _⟩ := hp
    have hzero : RawRange p (0 : p.Container).toInt := by
      simpa using rawRange_zero p
    exact inv_of_idle_live rfl rfl
      { gainB := rfl, gainA := id, offsetA := hzero, offsetB := hzero, pins := hpins,
        dirData := hdata, dirClock := hclock } rfl

theorem teardownStep_inv {call : TeardownCall} (hs : e.seq = .teardown call) (h : e.Inv) :
    (teardownStep call e).Inv := by
  cases call with
  | dirData =>
    obtain ⟨hl, _, hk⟩ := (inv_teardown_dirData hs).1 h
    exact (inv_teardown_dirClock rfl).2 ⟨hl, rfl, hk⟩
  | dirClock =>
    obtain ⟨_, hdata, hk⟩ := (inv_teardown_dirClock hs).1 h
    exact (inv_idle rfl).2 ⟨hdata, rfl, hk⟩

/-! ## Issuing a command -/

/-- SETGAIN stores only a setting of the channel's family (R28, R140). -/
theorem offerGain_inv {ch : Channel} {g : GainSetting} (hs : e.seq = .idle) (hl : e.life = .live)
    (hc : Configured e) (hk : e.clkOut = .low) : (e.offerGain ch g).Inv := by
  rcases offerGain_cases ch g e with ⟨rfl, hg, heq⟩ | ⟨rfl, rfl, heq⟩ | ⟨_, heq⟩
  · have hfamily : inFamily .a g = true := by
      cases g with
      | g32 => exact absurd rfl hg
      | _ => rfl
    rw [heq]
    exact inv_of_idle_live hs hl { hc with gainA := fun _ => hfamily } hk
  · rw [heq]
    exact inv_of_idle_live hs hl { hc with gainB := rfl } hk
  · rw [heq]
    exact inv_of_idle_live hs hl hc hk

/-- Of the invariant between operations a command needs only what it says of a LIVE engine: CONSTRUCT, which
is for the others, brings what it needs. -/
theorem Issued.inv {i : Instr} (h : Issued e i t) (hs : e.seq = .idle)
    (hidle : e.life = .live → Configured e ∧ e.clkOut = .low) : t.Inv := by
  cases h with
  | construct dpin cpin hl hpins => exact (inv_construct .dirData rfl).2 ⟨hl, hpins, trivial⟩
  | teardown hl =>
    obtain ⟨hc, hk⟩ := hidle hl
    exact (inv_teardown_dirData rfl).2 ⟨hl, { hc with }, hk⟩
  | setGain ch g hl =>
    obtain ⟨hc, hk⟩ := hidle hl
    exact offerGain_inv hs hl hc hk
  | select ch hl =>
    obtain ⟨hc, hk⟩ := hidle hl
    exact beginSelect_inv ⟨hl, hc, trivial⟩ hk
  | shiftIn ch hl =>
    obtain ⟨hc, hk⟩ := hidle hl
    exact beginShiftIn_inv ⟨hl, hc, trivial⟩ hk
  | readRaw ch hl =>
    obtain ⟨hc, hk⟩ := hidle hl
    exact beginSelect_inv ⟨hl, hc, trivial⟩ hk
  | readCal ch hl =>
    obtain ⟨hc, hk⟩ := hidle hl
    exact beginSelect_inv ⟨hl, hc, trivial⟩ hk
  | calibrate ch k n hl _ hn =>
    obtain ⟨hc, hk⟩ := hidle hl
    exact beginSelect_inv ⟨hl, { hc with }, ownerInv_calibrate_begin hn⟩ hk
  | avgRead ch k n hl _ hn =>
    obtain ⟨hc, hk⟩ := hidle hl
    exact beginSelect_inv ⟨hl, { hc with }, ownerInv_avgRead_begin hn⟩ hk

/-! ## The statements -/

theorem engineStep_inv (hb : e.seq ≠ .idle) (h : e.Inv) (ht : engineStep e = .next t) : t.Inv := by
  rcases engineStep_cases hb ht with
    ⟨call, hs, rfl⟩ | ⟨call, hs, rfl⟩ | ⟨call, o, hs, ht⟩ | ⟨call, o, hs, ht⟩
  · exact constructStep_inv hs h
  · exact teardownStep_inv hs h
  · exact selectStep_inv hs h ht
  · exact shiftInStep_inv hs h ht

theorem step_inv (h : e.Inv) (ht : step ⟨p, e⟩ = .next ⟨p, t⟩) : t.Inv := by
  rcases step_next_cases ht with ⟨hb, ht⟩ | ⟨_, rfl⟩ | ⟨w, rest, i, hi, _, _, ht⟩
  · exact engineStep_inv hb h ht
  · exact h
  · refine ht.inv hi fun hl => ?_
    obtain ⟨hc, hk⟩ := (idleInv_of_live (e := e) hl).1 ((inv_idle hi).1 h)
    exact ⟨{ hc with }, hk⟩

/-- Settles O42: an UNBUILT idle engine meets it whatever its registers hold. -/
theorem powerOnMeetsTheInvariant : Obligations.PowerOnMeetsTheInvariant := by
  unfold Obligations.PowerOnMeetsTheInvariant
  have hpowerOn : ∀ p : Params, (Engine.powerOn p).Inv := fun _ => (inv_idle rfl).2 trivial
  exact ⟨hpowerOn Params.literal, hpowerOn⟩

/-- Settles O43, by the kind of the step, from a lemma for each function of the model that ends one. -/
theorem stepKeepsTheInvariant : Obligations.StepKeepsTheInvariant := by
  unfold Obligations.StepKeepsTheInvariant
  rintro ⟨p, e⟩ ⟨q, t⟩ h ht
  obtain rfl : q = p := step_params ht
  exact step_inv h ht

end Sys2Proof.Machine
end

section
/-! # The pin event of a step (spec 20 R62 to R66)

The place in the operation in progress says which platform call comes next, and so which event the next step
adds and which level the clock latch holds after it. What follows a call, up to the next, touches no pin.
The two statements of spec 20 are read off the events: which pin each is on (R66), and, from what the
invariant says of the clock at each place, which level is written (R63). -/

namespace Sys2Proof.Machine

variable {p : Params} {o : Owner p} {e u t : Engine p}

/-! ## The event a place stands for -/

/-- The event of the platform call that `SEQ = s` names as the next (R40, R62). -/
def Engine.eventAt (e : Engine p) (s : Seq p) : Option (PinEvent p) :=
  match s with
  | .idle => none
  | .construct .dirData | .teardown .dirData => some (.dir e.pinData .input)
  | .construct .dirClock => some (.dir e.pinClock .output)
  | .teardown .dirClock => some (.dir e.pinClock .input)
  | .construct .delay => some (.delay p.resetDelayUs)
  | .construct .rise | .select .rise _ | .shiftIn .rise _ | .shiftIn .plainRise _ =>
    some (.write e.pinClock .high)
  | .construct .fall | .select .fall _ | .shiftIn .fall _ | .shiftIn .plainFall _ =>
    some (.write e.pinClock .low)
  | .select .poll _ | .shiftIn .poll _ | .shiftIn .sample _ => some (.read e.pinData e.nextLevel)

/-- The level of the clock latch after an event, or after none: only a write moves it (R63). -/
def clockAfter (ev : Option (PinEvent p)) (l : Level) : Level :=
  match ev with
  | some (.write _ l') => l'
  | some (.dir _ _) | some (.read _ _) | some (.delay _) | none => l

/-- What the event `ev`, or none, does to the trace and to the clock latch. -/
structure PinEffect (ev : Option (PinEvent p)) (e t : Engine p) : Prop where
  trace : t.trace = e.trace ++ ev.toList
  clkOut : t.clkOut = clockAfter ev e.clkOut

/-! ## What touches no pin -/

theorem PinEffect.none_of_eq (htrace : t.trace = e.trace) (hclk : t.clkOut = e.clkOut) :
    PinEffect none e t :=
  ⟨by simpa using htrace, hclk⟩

/-- A call, and then what touches no pin. -/
theorem PinEffect.then_none {ev : Option (PinEvent p)} (h : PinEffect ev e u) (h' : PinEffect none u t) :
    PinEffect ev e t where
  trace := by simpa [h.trace] using h'.trace
  clkOut := h'.clkOut.trans h.clkOut

theorem pulseLoop_pinEffect (h : pulseLoop o (afterSelect o) e = .next t) : PinEffect none e t := by
  rcases pulseLoop_next h with ⟨_, rfl⟩ | ⟨_, _, rfl⟩ | ⟨_, _, rfl⟩
  · exact .none_of_eq rfl rfl
  · exact .none_of_eq rfl rfl
  · exact .none_of_eq rfl rfl

theorem storeMean_pinEffect (ch : Channel) (n : p.Count) (e : Engine p) :
    PinEffect none e (e.storeMean ch n) := by
  cases ch with
  | a => exact .none_of_eq rfl rfl
  | b => exact .none_of_eq rfl rfl

theorem calibrateLoop_pinEffect {ch : Channel} {n : p.Count} (h : calibrateLoop ch n e = .next t) :
    PinEffect none e t := by
  rcases calibrateLoop_next h with ⟨_, rfl⟩ | ⟨_, _, rfl⟩
  · exact .none_of_eq rfl rfl
  · exact (storeMean_pinEffect ch n e).then_none (.none_of_eq rfl rfl)

theorem avgReadLoop_pinEffect {ch : Channel} {n : p.Count} (h : avgReadLoop ch n e = .next t) :
    PinEffect none e t := by
  rcases avgReadLoop_next h with ⟨_, rfl⟩ | ⟨_, _, rfl⟩
  · exact .none_of_eq rfl rfl
  · exact .none_of_eq (by simp) (by simp)

/-- The use of a sample is arithmetic, whatever the operation (R127, R150, R152, R160, R170). -/
theorem afterShiftIn_pinEffect (h : afterShiftIn o e = .next t) : PinEffect none e t := by
  cases o with
  | alone =>
    cases h
    exact .none_of_eq rfl rfl
  | readRaw ch =>
    cases h
    exact .none_of_eq rfl rfl
  | readCal ch =>
    obtain ⟨_, rfl⟩ := afterShiftIn_readCal_next h
    exact .none_of_eq rfl rfl
  | calibrate ch n =>
    have hadd : PinEffect none e e.addRaw := .none_of_eq rfl rfl
    exact hadd.then_none (calibrateLoop_pinEffect h)
  | avgRead ch n =>
    obtain ⟨v, _, _, h⟩ := afterShiftIn_avgRead_next h
    have hadd : PinEffect none e (Engine.addCal { e with result := BitVec.ofInt p.accW v }) :=
      .none_of_eq rfl rfl
    exact hadd.then_none (avgReadLoop_pinEffect h)

theorem sample_used_pinEffect (h : afterShiftIn o e.takeSample = .next t) : PinEffect none e t :=
  have htake : PinEffect none e e.takeSample := .none_of_eq rfl rfl
  htake.then_none (afterShiftIn_pinEffect h)

theorem afterSample_pinEffect (h : afterSample o (afterShiftIn o) e = .next t) : PinEffect none e t := by
  rcases afterSample_cases h with ⟨_, h⟩ | ⟨_, _, h⟩ | ⟨_, _, h⟩
  · cases h
    exact .none_of_eq rfl rfl
  · cases h
    exact .none_of_eq rfl rfl
  · exact sample_used_pinEffect h.symm

theorem afterPlain_pinEffect (h : afterPlain o (afterShiftIn o) e = .next t) : PinEffect none e t := by
  rcases afterPlain_cases h with ⟨_, h⟩ | ⟨_, h⟩
  · cases h
    exact .none_of_eq rfl rfl
  · exact sample_used_pinEffect h.symm

/-- To issue a command touches no pin (log 2). -/
theorem Issued.pinEffect {i : Instr} (h : Issued e i t) : PinEffect none e t := by
  cases h with
  | setGain ch g =>
    obtain ⟨_, _, heq⟩ := offerGain_frame ch g e
    rw [heq]
    exact .none_of_eq rfl rfl
  | _ => exact .none_of_eq rfl rfl

/-! ## What a step does to the pins -/

theorem pinRead_pinEffect (e : Engine p) :
    PinEffect (some (.read e.pinData e.nextLevel)) e e.pinRead :=
  ⟨Engine.pinRead_trace e, Engine.pinRead_clkOut e⟩

theorem pinWrite_pinEffect (l : Level) (e : Engine p) :
    PinEffect (some (.write e.pinClock l)) e (e.pinWrite l) :=
  ⟨rfl, rfl⟩

theorem constructStep_pinEffect (call : ConstructCall) (e : Engine p) :
    PinEffect (e.eventAt (.construct call)) e (constructStep call e) := by
  cases call <;> exact ⟨rfl, rfl⟩

theorem teardownStep_pinEffect (call : TeardownCall) (e : Engine p) :
    PinEffect (e.eventAt (.teardown call)) e (teardownStep call e) := by
  cases call <;> exact ⟨rfl, rfl⟩

theorem selectStep_pinEffect {call : SelectCall} (h : selectStep call o (afterSelect o) e = .next t) :
    PinEffect (e.eventAt (.select call o)) e t := by
  cases call with
  | poll =>
    rcases waitReady_next h with ⟨_, rfl⟩ | ⟨_, h⟩
    · exact pinRead_pinEffect e
    · exact (pinRead_pinEffect e).then_none (pulseLoop_pinEffect h)
  | rise =>
    cases h
    exact (pinWrite_pinEffect .high e).then_none (.none_of_eq rfl rfl)
  | fall =>
    have hwrite : PinEffect _ e { e.pinWrite .low with pcnt := e.pcnt - 1 } :=
      (pinWrite_pinEffect .low e).then_none (.none_of_eq rfl rfl)
    exact hwrite.then_none (pulseLoop_pinEffect h)

theorem shiftInStep_pinEffect {call : ShiftInCall}
    (h : shiftInStep call o (afterShiftIn o) e = .next t) :
    PinEffect (e.eventAt (.shiftIn call o)) e t := by
  cases call with
  | poll =>
    rcases shiftInStep_poll_next h with rfl | rfl
    · exact pinRead_pinEffect e
    · exact (pinRead_pinEffect e).then_none (.none_of_eq rfl rfl)
  | sample =>
    cases h
    exact (pinRead_pinEffect e).then_none (.none_of_eq rfl rfl)
  | rise | plainRise =>
    cases h
    exact (pinWrite_pinEffect .high e).then_none (.none_of_eq rfl rfl)
  | fall => exact (pinWrite_pinEffect .low e).then_none (afterSample_pinEffect h)
  | plainFall => exact (pinWrite_pinEffect .low e).then_none (afterPlain_pinEffect h)

/-- A step does to the pins what its place in the operation says, and nothing while idle (R40, R72). -/
theorem step_pinEffect (h : step ⟨p, e⟩ = .next ⟨p, t⟩) : PinEffect (e.eventAt e.seq) e t := by
  rcases step_next_cases h with ⟨hb, h⟩ | ⟨hs, rfl⟩ | ⟨w, rest, i, hs, _, _, h⟩
  · rcases engineStep_cases hb h with
      ⟨call, hs, rfl⟩ | ⟨call, hs, rfl⟩ | ⟨call, o, hs, h⟩ | ⟨call, o, hs, h⟩
    · rw [hs]
      exact constructStep_pinEffect call e
    · rw [hs]
      exact teardownStep_pinEffect call e
    · rw [hs]
      exact selectStep_pinEffect h
    · rw [hs]
      exact shiftInStep_pinEffect h
  · rw [hs]
    exact .none_of_eq rfl rfl
  · rw [hs]
    have htaken : PinEffect none e { e with program := rest } := .none_of_eq rfl rfl
    exact htaken.then_none h.pinEffect

/-! ## The pin of each event -/

/-- The events of the engine, by pin (R66). -/
theorem eventAt_cases {s : Seq p} {ev : PinEvent p} (h : e.eventAt s = some ev) :
    ev = .dir e.pinData .input ∨ (∃ l, ev = .read e.pinData l) ∨
    ev = .dir e.pinClock .output ∨ ev = .dir e.pinClock .input ∨
    (∃ l, ev = .write e.pinClock l) ∨ ev = .delay p.resetDelayUs := by
  cases s with
  | idle => cases h
  | construct call => cases call <;> cases h <;> simp
  | teardown call => cases call <;> cases h <;> simp
  | select call o => cases call <;> cases h <;> simp
  | shiftIn call o => cases call <;> cases h <;> simp

/-- With two distinct pins no event of the engine writes DATA, reads CLOCK or sets DATA to output. -/
theorem eventAt_apart {s : Seq p} {ev : PinEvent p} (h : e.eventAt s = some ev)
    (hpins : e.pinData ≠ e.pinClock) :
    (∀ l, ev ≠ .write e.pinData l ∧ ev ≠ .read e.pinClock l) ∧ ev ≠ .dir e.pinData .output := by
  rcases eventAt_cases h with rfl | ⟨_, rfl⟩ | rfl | rfl | ⟨_, rfl⟩ | rfl <;>
    simp [hpins, hpins.symm]

/-! ## The level a LIVE engine writes -/

/-- Every rising edge is a call at which the invariant has the clock LOW, and every falling edge one at which
it is HIGH (R121 to R123). -/
theorem clkOut_ne_of_write (h : e.Inv) (hl : e.life = .live) {pin : p.PinId} {l : Level}
    (hw : e.eventAt e.seq = some (.write pin l)) : e.clkOut ≠ l := by
  cases hs : e.seq with
  | idle =>
    rw [hs] at hw
    cases hw
  | construct call =>
    obtain ⟨hnotLive, _⟩ := (inv_construct call hs).1 h
    exact absurd hl hnotLive
  | teardown call =>
    rw [hs] at hw
    cases call <;> cases hw
  | select call o =>
    obtain ⟨_, hclk⟩ := (inv_select call hs).1 h
    rw [hs] at hw
    cases call with
    | poll => cases hw
    | rise =>
      obtain ⟨hlow, _⟩ := hclk
      cases hw
      simp [hlow]
    | fall =>
      obtain ⟨hhigh, _⟩ := hclk
      cases hw
      simp [hhigh]
  | shiftIn call o =>
    obtain ⟨_, hclk⟩ := (inv_shiftIn call hs).1 h
    rw [hs] at hw
    cases call with
    | poll | sample => cases hw
    | rise | plainRise =>
      obtain ⟨hlow, _⟩ := hclk
      cases hw
      simp [hlow]
    | fall | plainFall =>
      obtain ⟨hhigh, _⟩ := hclk
      cases hw
      simp [hhigh]

/-! ## The statements -/

/-- Settles O10: the event is the one that the place in the operation stands for. -/
theorem engineEventsAreOnItsTwoPins : Obligations.EngineEventsAreOnItsTwoPins := by
  unfold Obligations.EngineEventsAreOnItsTwoPins
  refine ⟨rfl, fun p e t h => ?_⟩
  have htrace := (step_pinEffect h).trace
  cases hev : e.eventAt e.seq with
  | none => exact .inl (by simpa [hev] using htrace)
  | some ev =>
    rw [hev] at htrace
    exact .inr ⟨ev, htrace, eventAt_cases hev, eventAt_apart hev⟩

/-- Settles O11: the invariant fixes the clock level at each place that a write comes from. -/
theorem writesAlternateWhileLive : Obligations.WritesAlternateWhileLive := by
  unfold Obligations.WritesAlternateWhileLive
  intro p e t pin l hinv hlive h hadded
  obtain ⟨htrace, hclk⟩ := step_pinEffect h
  have hev : e.eventAt e.seq = some (.write pin l) := by
    simpa [hadded] using htrace.symm
  rw [hev] at hclk
  have hpin : pin = e.pinClock := by simpa using eventAt_cases hev
  exact ⟨hpin, clkOut_ne_of_write hinv hlive hev, hclk⟩

end Sys2Proof.Machine
end

section
/-! # The decoder and the encoder are inverse, and the grounds of refusal (spec 30)

A word is cut into adjacent fields, and one lemma, `field_append_eq_iff`, says when two of them make up a
number; every format of R101 is read with it. `decode_eq` then puts the decoder into the order of R104:
the zero bits of the format first, then the operands. From it come the round trip, said once as an
equivalence (`decode_eq_ok_iff`), and the grounds. -/

namespace Sys2Proof

variable {p : Params} {w : Word} {i : Instr}

/-! ## Adjacent fields -/

/-- The lowest `len` bits hold the number whose lowest `k` bits and whose rest the two parts of them hold. -/
theorem field_append_eq_iff (w : Word) {k len : Nat} (hk : k ≤ len) {high low : Nat} (h : low < 2 ^ k) :
    (w.extractLsb' 0 len).toNat = high * 2 ^ k + low ↔
      (w.extractLsb' 0 k).toNat = low ∧ (w.extractLsb' k (len - k)).toNat = high := by
  obtain ⟨m, rfl⟩ := Nat.exists_eq_add_of_le hk
  have hunique := Nat.div_mod_unique (a := w.toNat % 2 ^ (k + m)) (d := high) (c := low) (Nat.two_pow_pos k)
  rw [pow_add, Nat.mod_mul_right_div_self, Nat.mod_mul_right_mod, ← pow_add, and_iff_left h] at hunique
  simp only [field_toNat, pow_zero, Nat.div_one, Nat.add_sub_cancel_left]
  rw [and_comm, hunique, eq_comm, Nat.mul_comm, Nat.add_comm]

theorem opcode_eq_field (w : Word) : w.opcode = (w.extractLsb' 28 4).toNat := by
  have := w.isLt
  rw [field_toNat, Word.opcode]
  omega

theorem wordOf_eq_iff {op below : Nat} (ho : op < 16) (hb : below < 2 ^ 28) :
    wordOf op below = w ↔ w.opcode = op ∧ (w.extractLsb' 0 28).toNat = below := by
  have hsplit := field_append_eq_iff w (len := 32) (by decide) (high := op) hb
  rw [← BitVec.toNat_inj, wordOf_toNat ho hb, opcode_eq_field, and_comm, ← hsplit, eq_comm]
  simp

theorem chField_eq_iff {ch : Channel} : chField w = ch ↔ (w.extractLsb' 27 1).toNat = ch.code.toNat := by
  rw [BitVec.toNat_inj, chField]
  constructor
  · rintro rfl
    exact (Channel.code_ofCode _).symm
  · intro h
    rw [h, Channel.ofCode_code]

/-- Formats C, G and N: the opcode, `ch`, and 27 bits more (R101). -/
theorem wordCh_eq_iff {op below : Nat} {ch : Channel} (ho : op < 16) (hb : below < 2 ^ 27) :
    wordCh op ch below = w ↔ w.opcode = op ∧ chField w = ch ∧ (w.extractLsb' 0 27).toNat = below := by
  have hlt := ch.code.isLt
  rw [wordCh, wordOf_eq_iff ho (by omega), field_append_eq_iff w (by decide) hb, chField_eq_iff,
    and_comm (b := _ = below)]

/-! ## Bits shown as 0 -/

theorem getLsbD_ones {lo hi : Nat} (h : lo ≤ hi) (k : Nat) :
    (Word.ones lo hi).getLsbD k = decide (k < 32 ∧ lo ≤ k ∧ k < hi) := by
  have hones : 2 ^ hi - 2 ^ lo = (2 ^ (hi - lo) - 1) * 2 ^ lo := by
    rw [Nat.sub_mul, ← pow_add, Nat.sub_add_cancel h, Nat.one_mul]
  rw [Word.ones, BitVec.getLsbD_ofNat, hones, Nat.testBit_mul_two_pow, Nat.testBit_two_pow_sub_one]
  grind

/-- The bits of a mask are clear exactly when the field they make up is 0. -/
theorem and_ones_eq_zero_iff (w : Word) {lo hi : Nat} (h : lo ≤ hi) :
    w &&& Word.ones lo hi = 0 ↔ w.extractLsb' lo (hi - lo) = 0 := by
  simp only [BitVec.eq_of_getLsbD_eq_iff, BitVec.getLsbD_and, getLsbD_ones h, BitVec.getLsbD_extractLsb',
    BitVec.ofNat_eq_ofNat, BitVec.getLsbD_zero]
  constructor
  · intro hand k hk
    by_cases hin : lo + k < 32
    · have := hand (lo + k) hin
      grind
    · simp [BitVec.getLsbD_of_ge _ _ (Nat.le_of_not_lt hin)]
  · intro hfield k hk
    by_cases hin : lo ≤ k ∧ k < hi
    · have := hfield (k - lo) (by omega)
      grind
    · simp [hin]

/-! ## The decoder in the order of R104 -/

/-- What the row of an opcode makes of a word whose zero bits are clear (R102, R103). -/
def decodeOperands (p : Params) (w : Word) : Nat → Except Illegal Instr
  | 0x1 => .ok (.construct (dpinOf p w) (cpinOf p w))
  | 0x2 => .ok .teardown
  | 0x3 => decodeSetGain w
  | 0x4 => .ok (.select (chField w))
  | 0x5 => .ok (.shiftIn (chField w))
  | 0x6 => .ok (.readRaw (chField w))
  | 0x7 => .ok (.readCal (chField w))
  | 0x8 => .ok (.calibrate (chField w) (countOf p w))
  | 0x9 => .ok (.avgRead (chField w) (countOf p w))
  | _ => .error .reservedOpcode

theorem ifClear_eq (w : Word) {lo hi : Nat} (h : lo ≤ hi) (r : Except Illegal Instr) :
    ifClear w lo (hi - lo) r = if w &&& Word.ones lo hi = 0 then r else .error .reservedBits := by
  simp only [ifClear, and_ones_eq_zero_iff w h]

/-- The decoder asks for the zero bits that the opcode's format shows, then reads the operands; a reserved
opcode has no format and so no such bits (R103, R104). -/
theorem decode_eq (p : Params) (w : Word) :
    decode p w =
      if w &&& reservedMask p w.opcode = 0 then decodeOperands p w w.opcode else .error .reservedBits := by
  have hpin := p.pinField_le
  have hcount := p.countField_le
  unfold decode
  rw [← opcode_eq_field]
  split
  case h_1 h | h_8 h | h_9 h => rw [h]; exact ifClear_eq w (by omega) _
  case h_2 h | h_3 h | h_4 h | h_5 h | h_6 h | h_7 h => rw [h]; exact ifClear_eq w (by decide) _
  case h_10 => simp [reservedMask, decodeOperands]

/-! ## The round trip -/

theorem Instr.wellFormed_setGain {ch : Channel} {g : GainSetting} : (Instr.setGain ch g).WellFormed p := by
  cases g <;> simp [Instr.WellFormed, Instr.fields]

theorem Instr.wellFormed_of_no_fields (h : i.fields p = []) : i.WellFormed p := by
  simp [Instr.WellFormed, h]

theorem decodeSetGain_eq_ok_iff : decodeSetGain w = .ok i ↔
    ∃ g, w.extractLsb' 25 2 = GainSetting.code g ∧ Instr.setGain (chField w) g = i := by
  simp only [← GainSetting.ofCode_eq_some_iff]
  unfold decodeSetGain
  cases GainSetting.ofCode (w.extractLsb' 25 2) <;> simp

/-- What the operands are read as is a well-formed command of the row. -/
theorem decodeOperands_ok {op : Nat} (h : decodeOperands p w op = .ok i) :
    op = i.opcode ∧ i.WellFormed p := by
  unfold decodeOperands at h
  split at h
  case h_3 =>
    obtain ⟨g, -, rfl⟩ := decodeSetGain_eq_ok_iff.1 h
    exact ⟨rfl, Instr.wellFormed_setGain⟩
  all_goals cases h
  case h_1 => exact ⟨rfl, Instr.wellFormed_construct.2 ⟨BitVec.isLt _, BitVec.isLt _⟩⟩
  case h_8 => exact ⟨rfl, Instr.wellFormed_calibrate.2 (BitVec.isLt _)⟩
  case h_9 => exact ⟨rfl, Instr.wellFormed_avgRead.2 (BitVec.isLt _)⟩
  all_goals exact ⟨rfl, Instr.wellFormed_of_no_fields rfl⟩

/-- A word decodes to a command when it has the command's opcode, the zero bits of its format and its
operands. -/
theorem decode_eq_ok_iff_operands : decode p w = .ok i ↔
    w.opcode = i.opcode ∧ w &&& reservedMask p i.opcode = 0 ∧ decodeOperands p w i.opcode = .ok i := by
  rw [decode_eq]
  constructor
  · intro h
    split at h
    case isTrue hclear =>
      obtain ⟨hop, -⟩ := decodeOperands_ok h
      rw [hop] at hclear h
      exact ⟨hop, hclear, h⟩
    case isFalse => cases h
  · rintro ⟨hop, hclear, h⟩
    rw [hop, if_pos hclear, h]

/-- A word of format Z (R101). -/
theorem wordOf_zero_eq_iff {op : Nat} (ho : op < 16) :
    wordOf op 0 = w ↔ w.opcode = op ∧ w &&& Word.ones 0 28 = 0 := by
  rw [wordOf_eq_iff ho (by decide), and_ones_eq_zero_iff w (by decide), ← BitVec.toNat_inj]
  rfl

/-- A word of format P (R101). -/
theorem wordOf_pins_eq_iff {op dpin cpin : Nat} (ho : op < 16) (hd : dpin < 2 ^ p.pinField)
    (hc : cpin < 2 ^ p.pinField) :
    wordOf op (dpin * 2 ^ p.pinField + cpin) = w ↔
      w.opcode = op ∧ w &&& Word.ones (2 * p.pinField) 28 = 0 ∧ dpinOf p w = dpin ∧ cpinOf p w = cpin := by
  have hle : 2 * p.pinField ≤ 28 := by
    have := p.pinField_le
    omega
  have hpins : dpin * 2 ^ p.pinField + cpin < 2 ^ (2 * p.pinField) := by
    rw [two_mul, pow_add]
    nlinarith
  have hbelow := hpins.trans_le (Nat.pow_le_pow_right (by decide) hle)
  have hzeros := field_append_eq_iff w hle (high := 0) hpins
  have hfields := field_append_eq_iff w (k := p.pinField) (len := 2 * p.pinField) (by omega) (high := dpin) hc
  rw [Nat.zero_mul, Nat.zero_add] at hzeros
  rw [two_mul, Nat.add_sub_cancel, ← two_mul] at hfields
  rw [wordOf_eq_iff ho hbelow, hzeros, hfields, and_ones_eq_zero_iff w hle, ← BitVec.toNat_inj]
  simp only [dpinOf, cpinOf]
  tauto

/-- A word of format C (R101). -/
theorem wordCh_zero_eq_iff {op : Nat} {ch : Channel} (ho : op < 16) :
    wordCh op ch 0 = w ↔ w.opcode = op ∧ w &&& Word.ones 0 27 = 0 ∧ chField w = ch := by
  rw [wordCh_eq_iff ho (by decide), and_ones_eq_zero_iff w (by decide), ← BitVec.toNat_inj, and_comm (b := _ = ch)]
  rfl

/-- A word of format G (R101). -/
theorem wordCh_gain_eq_iff {op : Nat} {ch : Channel} {g : GainSetting} (ho : op < 16) :
    wordCh op ch (g.code.toNat * 2 ^ 25) = w ↔
      w.opcode = op ∧ w &&& Word.ones 0 25 = 0 ∧ chField w = ch ∧ w.extractLsb' 25 2 = g.code := by
  have hlt := g.code.isLt
  have hsplit := field_append_eq_iff w (k := 25) (len := 27) (by decide) (high := g.code.toNat) (Nat.two_pow_pos 25)
  rw [wordCh_eq_iff ho (by omega), and_ones_eq_zero_iff w (by decide), ← BitVec.toNat_inj, ← BitVec.toNat_inj,
    ← Nat.add_zero (_ * _), hsplit, and_left_comm (a := chField w = ch)]
  rfl

/-- A word of format N (R101). -/
theorem wordCh_count_eq_iff {op n : Nat} {ch : Channel} (ho : op < 16) (hn : n < 2 ^ p.countField) :
    wordCh op ch n = w ↔
      w.opcode = op ∧ w &&& Word.ones p.countField 27 = 0 ∧ chField w = ch ∧ countOf p w = n := by
  have hsplit := field_append_eq_iff w p.countField_le (high := 0) hn
  rw [Nat.zero_mul, Nat.zero_add] at hsplit
  rw [wordCh_eq_iff ho (Laws.EncodesItsRow.count_lt_field hn), hsplit,
    and_ones_eq_zero_iff w p.countField_le, ← BitVec.toNat_inj]
  simp only [countOf]
  tauto

/-- R109: the one word that decodes to a well-formed command is the command's own. -/
theorem decode_eq_ok_iff (hi : i.WellFormed p) : decode p w = .ok i ↔ encode p i = w := by
  rw [decode_eq_ok_iff_operands]
  cases i with
  | construct dpin cpin =>
    obtain ⟨hd, hc⟩ := Instr.wellFormed_construct.1 hi
    simp [encode, Instr.opcode, reservedMask, decodeOperands, wordOf_pins_eq_iff, hd, hc]
  | teardown => simp [encode, Instr.opcode, reservedMask, decodeOperands, wordOf_zero_eq_iff]
  | setGain ch g =>
    rw [encode, wordCh_gain_eq_iff (by decide)]
    simp [Instr.opcode, reservedMask, decodeOperands, decodeSetGain_eq_ok_iff, and_comm]
  | select ch | shiftIn ch | readRaw ch | readCal ch =>
    simp [encode, Instr.opcode, reservedMask, decodeOperands, wordCh_zero_eq_iff]
  | calibrate ch n | avgRead ch n =>
    have hn : n < 2 ^ p.countField := by simpa using hi
    simp [encode, Instr.opcode, reservedMask, decodeOperands, wordCh_count_eq_iff (p := p), hn]

theorem decode_wellFormed (h : decode p w = .ok i) : i.WellFormed p := by
  obtain ⟨-, -, hoperands⟩ := decode_eq_ok_iff_operands.1 h
  obtain ⟨-, hi⟩ := decodeOperands_ok hoperands
  exact hi

/-! ## The grounds of R104 -/

theorem decodeSetGain_eq_error_iff {why : Illegal} : decodeSetGain w = .error why ↔
    why = .reservedGain ∧ w.extractLsb' 25 2 = 3 := by
  rw [← GainSetting.ofCode_eq_none_iff]
  unfold decodeSetGain
  cases GainSetting.ofCode (w.extractLsb' 25 2) <;> simp [eq_comm]

/-- Operands are refused for a reserved opcode, whose row has none, and for the reserved gain code. -/
theorem decodeOperands_eq_error_iff {op : Nat} {why : Illegal} : decodeOperands p w op = .error why ↔
    (why = .reservedOpcode ∧ (op = 0 ∨ 10 ≤ op)) ∨
      (why = .reservedGain ∧ op = 3 ∧ w.extractLsb' 25 2 = 3) := by
  unfold decodeOperands
  split
  case h_3 => simp [decodeSetGain_eq_error_iff]
  case h_10 =>
    have hop : op = 0 ∨ 10 ≤ op := by grind
    have hne : op ≠ 3 := by omega
    simp [hop, hne, eq_comm]
  all_goals simp

theorem reservedMask_of_unassigned {op : Nat} (h : op = 0 ∨ 10 ≤ op) : reservedMask p op = 0 := by
  unfold reservedMask
  split
  case h_10 => rfl
  all_goals omega

/-- A format that shows some bits as 0 is that of an assigned opcode. -/
theorem assigned_of_reservedBits (h : w &&& reservedMask p w.opcode ≠ 0) : 1 ≤ w.opcode ∧ w.opcode ≤ 9 := by
  by_contra hop
  exact h (by rw [reservedMask_of_unassigned (by omega)]; exact BitVec.and_zero)

theorem decode_eq_reservedOpcode_iff :
    decode p w = .error .reservedOpcode ↔ w.opcode = 0 ∨ 10 ≤ w.opcode := by
  rw [decode_eq]
  split
  case isTrue => simp [decodeOperands_eq_error_iff]
  case isFalse hset =>
    have := assigned_of_reservedBits hset
    exact iff_of_false (by simp) (by omega)

theorem decode_eq_reservedBits_iff : decode p w = .error .reservedBits ↔
    1 ≤ w.opcode ∧ w.opcode ≤ 9 ∧ w &&& reservedMask p w.opcode ≠ 0 := by
  rw [decode_eq]
  split
  case isTrue hclear =>
    exact iff_of_false (by simp [decodeOperands_eq_error_iff]) fun ⟨_, _, hset⟩ => hset hclear
  case isFalse hset =>
    obtain ⟨hlow, hhigh⟩ := assigned_of_reservedBits hset
    exact iff_of_true rfl ⟨hlow, hhigh, hset⟩

theorem decode_eq_reservedGain_iff : decode p w = .error .reservedGain ↔
    w.opcode = 3 ∧ w &&& reservedMask p w.opcode = 0 ∧ w.extractLsb' 25 2 = 3 := by
  rw [decode_eq]
  split
  case isTrue hclear =>
    rw [decodeOperands_eq_error_iff]
    tauto
  case isFalse hset => exact iff_of_false (by simp) fun ⟨_, hclear, _⟩ => hset hclear

theorem Word.legal_eq_true_iff : Word.legal p w = true ↔
    (1 ≤ w.opcode ∧ w.opcode ≤ 9) ∧ w &&& reservedMask p w.opcode = 0 ∧
      ¬ (w.opcode = 3 ∧ w.extractLsb' 25 2 = 3) := by
  simp [Word.legal, Word.opcodeAssigned, Word.reservedClear, Word.gainCodeAssigned, and_assoc, imp_iff_not_or]

/-- A word is legal when the decoder has no ground against it. -/
theorem decode_ok_iff_legal : (∃ i, decode p w = .ok i) ↔ Word.legal p w = true := by
  have hok : (∃ i, decode p w = .ok i) ↔ ∀ why, decode p w ≠ .error why := by
    cases decode p w <;> simp
  rw [hok, Word.legal_eq_true_iff]
  constructor
  · intro h
    have hop : ¬ (w.opcode = 0 ∨ 10 ≤ w.opcode) := mt decode_eq_reservedOpcode_iff.2 (h _)
    have hlow : 1 ≤ w.opcode := by omega
    have hhigh : w.opcode ≤ 9 := by omega
    have hclear : w &&& reservedMask p w.opcode = 0 :=
      not_not.1 fun hset => h _ (decode_eq_reservedBits_iff.2 ⟨hlow, hhigh, hset⟩)
    exact ⟨⟨hlow, hhigh⟩, hclear, fun ⟨hop3, hgain⟩ =>
      h _ (decode_eq_reservedGain_iff.2 ⟨hop3, hclear, hgain⟩)⟩
  · rintro ⟨hop, hclear, hgain⟩ why
    cases why with
    | reservedOpcode => rw [Ne, decode_eq_reservedOpcode_iff]; omega
    | reservedBits => rw [Ne, decode_eq_reservedBits_iff]; tauto
    | reservedGain => rw [Ne, decode_eq_reservedGain_iff]; tauto

/-- A word of an unassigned opcode is illegal, whatever the widths of the fields. -/
theorem Word.legal_of_unassigned (h : w.opcode = 0 ∨ 10 ≤ w.opcode) : Word.legal p w = false := by
  rw [← Bool.not_eq_true, Word.legal_eq_true_iff]
  omega

theorem Word.legal_encode (h : i.WellFormed p) : Word.legal p (encode p i) = true :=
  decode_ok_iff_legal.1 ⟨i, (decode_eq_ok_iff h).2 rfl⟩

/-! ## The assembler -/

/-- R108: a line without a count has `DEFAULT_COUNT`. -/
theorem asmCount_default {mk : Channel → Nat → Instr} {cs : List Char} {ch : Channel}
    (hch : channelName cs = some ch) (hn : p.defaultCount < 2 ^ p.countField) :
    asmCount p mk [cs] = some (mk ch p.defaultCount) := by
  simp [asmCount, fitField, hch, hn]

/-! ## The statements -/

/-- Settles O2: the word of a command is the one that decodes to it. -/
theorem decodeOfEncode : Obligations.DecodeOfEncode := by
  unfold Obligations.DecodeOfEncode
  intro p i hi
  exact (decode_eq_ok_iff hi).2 rfl

/-- Settles O3: what a word decodes to is well formed, and has one word. -/
theorem encodeOfDecode : Obligations.EncodeOfDecode := by
  unfold Obligations.EncodeOfDecode
  intro p w i h
  have hi := decode_wellFormed h
  exact ⟨hi, (decode_eq_ok_iff hi).1 h⟩

/-- Settles O4: each ground by its lemma, and the spellings of R104 as words of well-formed commands. -/
theorem decodeNamesTheGround : Obligations.DecodeNamesTheGround := by
  unfold Obligations.DecodeNamesTheGround
  refine ⟨fun p w => ⟨decode_eq_reservedOpcode_iff, decode_eq_reservedBits_iff, decode_eq_reservedGain_iff,
    decode_ok_iff_legal⟩, fun p => ⟨?_, ?_⟩, fun p ch g d hd => ⟨?_, ?_, ?_, ?_⟩, by decide⟩
  · exact Word.legal_of_unassigned (.inl (by decide))
  · exact Word.legal_of_unassigned (.inr (by decide))
  · exact Word.legal_encode Instr.wellFormed_setGain
  · exact Word.legal_encode (Instr.wellFormed_calibrate.2 (Nat.two_pow_pos _))
  · exact Word.legal_encode (Instr.wellFormed_avgRead.2 (Nat.two_pow_pos _))
  · exact Word.legal_encode (Instr.wellFormed_construct.2 ⟨hd, hd⟩)

/-- Settles O1: the twenty words are closed terms. -/
theorem assemblyExamplesDecode : Obligations.AssemblyExamplesDecode := by
  unfold Obligations.AssemblyExamplesDecode
  decide

/-- Settles O5: each line is cut into its mnemonic and operands by evaluation, and the count is supplied by
`asmCount_default`. -/
theorem pseudoInstructionsExpand : Obligations.PseudoInstructionsExpand := by
  unfold Obligations.PseudoInstructionsExpand
  refine ⟨fun p => ⟨rfl, rfl, fun hn => ⟨?_, ?_, ?_, ?_⟩⟩, rfl, by decide, by decide⟩
  · exact asmCount_default (cs := ['A']) rfl hn
  · exact asmCount_default (cs := ['B']) rfl hn
  · exact asmCount_default (cs := ['A']) rfl hn
  · exact asmCount_default (cs := ['B']) rfl hn

end Sys2Proof

namespace Sys2Proof.Machine

theorem issueWord_of_illegal {s : State} {w : Word} {why : Illegal} (h : decode s.params w = .error why) :
    issueWord w s = .refused (.illegalCommand why) := by
  rw [issueWord, h]

/-- Settles O7: the step of an idle engine is the issuing of the word, which decodes it first (R193). -/
theorem stepRefusesIllegalWords : Obligations.StepRefusesIllegalWords := by
  unfold Obligations.StepRefusesIllegalWords
  intro p e w rest why hs hp hd
  rw [step_of_word hs hp]
  exact issueWord_of_illegal hd

end Sys2Proof.Machine
end

section
/-! # SELECT and SHIFTIN (spec 40)

The two procedures as commands of their own. What the engine's steps come to stands in the laws of WAITRDY,
of the pulses and of the frame; here are the issuing of the two commands, what their traces count, and what
SHIFTIN reads of the configuration. -/

namespace Sys2Proof.Machine

variable {p : Params} {e t : Engine p}

/-! ## Issuing the two commands -/

theorem exec_select (hs : e.seq = .idle) (hl : e.life = .live) (ch : Channel) :
    exec (.select ch) ⟨p, e⟩ = .next ⟨p, e.beginSelect ch .alone⟩ :=
  congrArg lift (whenLive_of_live hs hl _)

theorem exec_shiftIn (hs : e.seq = .idle) (hl : e.life = .live) (ch : Channel) :
    exec (.shiftIn ch) ⟨p, e⟩ = .next ⟨p, e.beginShiftIn .alone⟩ :=
  congrArg lift (whenLive_of_live hs hl _)

theorem exec_shiftIn_next_iff {ch : Channel} :
    exec (.shiftIn ch) ⟨p, e⟩ = .next ⟨p, t⟩ ↔
      e.seq = .idle ∧ e.life = .live ∧ e.beginShiftIn .alone = t := by
  change lift (whenLive e _) = _ ↔ _
  rw [lift_next_mk_iff, whenLive_next_iff, Host.Outcome.next.injEq]

/-! ## What the traces count (R125, R132) -/

section

variable (data clk : p.PinId)

@[simp] theorem length_waitTrace (k : Nat) : (waitTrace data k).length = k + 1 := by
  simp [waitTrace]

@[simp] theorem count_write_waitTrace (l : Level) (k : Nat) :
    (waitTrace data k).count (.write clk l) = 0 := by
  simp [waitTrace, List.count_replicate]

@[simp] theorem countP_isRead_waitTrace (k : Nat) :
    (waitTrace data k).countP PinEvent.isRead = k + 1 := by
  simp [waitTrace, List.countP_replicate, PinEvent.isRead]

@[simp] theorem length_pulseTrace (n : Nat) : (pulseTrace clk n).length = 2 * n := by
  induction n with
  | zero => rfl
  | succ n ih => simp only [pulseTrace, List.length_cons, ih]; omega

/-- A pulse writes each level once (R121). -/
@[simp] theorem count_write_pulseTrace (l : Level) (n : Nat) :
    (pulseTrace clk n).count (.write clk l) = n := by
  induction n with
  | zero => rfl
  | succ n ih => cases l <;> simp [pulseTrace, ih]

@[simp] theorem countP_isRead_pulseTrace (n : Nat) :
    (pulseTrace clk n).countP PinEvent.isRead = 0 := by
  induction n with
  | zero => rfl
  | succ n ih => simp [pulseTrace, ih, PinEvent.isRead]

@[simp] theorem length_sampleTrace (b : List Level) :
    (sampleTrace data clk b).length = 3 * b.length := by
  induction b with
  | nil => rfl
  | cons l ls ih => simp only [sampleTrace, List.length_cons, ih]; omega

/-- So does a sampled pulse, with a read between (R122). -/
@[simp] theorem count_write_sampleTrace (l : Level) (b : List Level) :
    (sampleTrace data clk b).count (.write clk l) = b.length := by
  induction b with
  | nil => rfl
  | cons l' ls ih => cases l <;> simp [sampleTrace, ih]

@[simp] theorem countP_isRead_sampleTrace (b : List Level) :
    (sampleTrace data clk b).countP PinEvent.isRead = b.length := by
  induction b with
  | nil => rfl
  | cons l ls ih => simp [sampleTrace, ih, PinEvent.isRead, List.countP_cons]

theorem length_selectTrace (k n : Nat) : (selectTrace data clk k n).length = k + 1 + 2 * n := by
  simp [selectTrace]

theorem length_shiftInTrace (k : Nat) {b : List Level} (hb : b.length = p.sampledBits) :
    (shiftInTrace data clk k b).length = k + 1 + frameEvents p := by
  simp only [shiftInTrace, List.length_append, length_waitTrace, length_sampleTrace, length_pulseTrace, hb,
    frameEvents, Nat.add_assoc]

/-- Each slot of the frame is one pulse, sampled or not (R90, R132). -/
theorem count_write_shiftInTrace (l : Level) (k : Nat) {b : List Level} (hb : b.length = p.sampledBits) :
    (shiftInTrace data clk k b).count (.write clk l) = p.sampleBits := by
  simp only [shiftInTrace, List.count_append, count_write_waitTrace, count_write_sampleTrace,
    count_write_pulseTrace, hb]
  have := lowestBit_add p
  omega

theorem countP_isRead_shiftInTrace (k : Nat) {b : List Level} (hb : b.length = p.sampledBits) :
    (shiftInTrace data clk k b).countP PinEvent.isRead = k + 1 + p.sampledBits := by
  simp only [shiftInTrace, List.countP_append, countP_isRead_waitTrace, countP_isRead_sampleTrace,
    countP_isRead_pulseTrace, hb, Nat.add_zero]

end

/-! ## The configuration (R133) -/

/-- The gains and the offsets, written over. -/
def Engine.withConfig (gA gB : GainSetting) (oA oB : p.Container) (e : Engine p) : Engine p :=
  { e with gainA := gA, gainB := gB, offsetA := oA, offsetB := oB }

/-- No operation is in progress, or a SHIFTIN that is a command of its own. -/
def ShiftInOrIdle (e : Engine p) : Prop := e.seq = .idle ∨ ∃ call, e.seq = .shiftIn call .alone

section

variable {gA gB : GainSetting} {oA oB : p.Container}

/-- A read moves none of the four registers, and depends on none (R64). -/
theorem pinRead_withConfig (e : Engine p) :
    (e.withConfig gA gB oA oB).pinRead = e.pinRead.withConfig gA gB oA oB := by
  cases hs : e.script <;>
    simp [Engine.pinRead, Engine.answered, Engine.nextLevel, Engine.withConfig, Engine.emit, Engine.pinOf, hs]

/-- Both outcomes are a next state, in which SHIFTIN goes on or has ended; the two differ in the configuration
alone. -/
def SameButConfig (gA gB : GainSetting) (oA oB : p.Container) (r r' : Outcome p) : Prop :=
  ∃ t, r = .next t ∧ r' = .next (t.withConfig gA gB oA oB) ∧ ShiftInOrIdle t

theorem afterSample_withConfig (e : Engine p) : SameButConfig gA gB oA oB
    (afterSample .alone (afterShiftIn .alone) e)
    (afterSample .alone (afterShiftIn .alone) (e.withConfig gA gB oA oB)) := by
  rcases afterSample_cases (e := e) (o := .alone) (done := afterShiftIn .alone) rfl with
    ⟨hb, h⟩ | ⟨hb, h0, h⟩ | ⟨hb, h0, h⟩
  · exact ⟨_, h, afterSample_more hb, .inr ⟨_, rfl⟩⟩
  · exact ⟨_, h, afterSample_plain hb h0, .inr ⟨_, rfl⟩⟩
  · exact ⟨_, h, afterSample_end hb h0, .inl rfl⟩

theorem afterPlain_withConfig (e : Engine p) : SameButConfig gA gB oA oB
    (afterPlain .alone (afterShiftIn .alone) e)
    (afterPlain .alone (afterShiftIn .alone) (e.withConfig gA gB oA oB)) := by
  rcases afterPlain_cases (e := e) (o := .alone) (done := afterShiftIn .alone) rfl with ⟨hb, h⟩ | ⟨hb, h⟩
  · exact ⟨_, h, afterPlain_more (not_le.2 hb), .inr ⟨_, rfl⟩⟩
  · exact ⟨_, h, afterPlain_end hb, .inl rfl⟩

/-- Each step of SHIFTIN, which always has a next state. -/
theorem shiftInStep_withConfig {call : ShiftInCall} (hs : e.seq = .shiftIn call .alone) :
    SameButConfig gA gB oA oB (shiftInStep call .alone (afterShiftIn .alone) e)
      (shiftInStep call .alone (afterShiftIn .alone) (e.withConfig gA gB oA oB)) := by
  cases call with
  | poll =>
    simp only [shiftInStep]
    cases hl : e.nextLevel with
    | high =>
      refine ⟨_, waitReady_of_high _ hl, ?_, .inr ⟨.poll, by simpa using hs⟩⟩
      rw [waitReady_of_high _ (by exact hl), pinRead_withConfig]
    | low =>
      refine ⟨_, waitReady_of_low _ hl, ?_, .inr ⟨.rise, rfl⟩⟩
      rw [waitReady_of_low _ (by exact hl), pinRead_withConfig]
      rfl
  | rise => exact ⟨_, rfl, rfl, .inr ⟨_, rfl⟩⟩
  | sample =>
    refine ⟨_, rfl, ?_, .inr ⟨_, rfl⟩⟩
    simp only [shiftInStep, pinRead_withConfig]
    rfl
  | fall => exact afterSample_withConfig _
  | plainRise => exact ⟨_, rfl, rfl, .inr ⟨_, rfl⟩⟩
  | plainFall => exact afterPlain_withConfig _

theorem operate_of_idle (h : e.seq = .idle) (k : Nat) : operate k e = .next e := by
  cases k with
  | zero => rfl
  | succ k => rw [operate, if_pos h]

theorem operate_succ (hb : e.seq ≠ .idle) (h : engineStep e = .next t) (k : Nat) :
    operate (k + 1) e = operate k t := by
  rw [operate, if_neg hb, h]

/-- Any number of steps of SHIFTIN, by induction on it. -/
theorem operate_withConfig (k : Nat) : ∀ e : Engine p, ShiftInOrIdle e →
    SameButConfig gA gB oA oB (operate k e) (operate k (e.withConfig gA gB oA oB)) := by
  induction k with
  | zero => exact fun e he => ⟨e, rfl, rfl, he⟩
  | succ k ih =>
    intro e he
    rcases he with hs | ⟨call, hs⟩
    · exact ⟨e, operate_of_idle hs _, operate_of_idle (e := e.withConfig gA gB oA oB) hs _, .inl hs⟩
    · obtain ⟨t, h, h', ht⟩ := shiftInStep_withConfig (gA := gA) (gB := gB) (oA := oA) (oB := oB) hs
      have hs' : (e.withConfig gA gB oA oB).seq = .shiftIn call .alone := hs
      rw [operate_succ (by simp [hs]) ((engineStep_shiftIn hs).trans h),
        operate_succ (by simp [hs']) ((engineStep_shiftIn hs').trans h')]
      exact ih t ht

end

/-! ## The statements -/

/-- Settles O22: the issue is `exec_select`, the steps are `run_select`. -/
theorem selectCompletes : Obligations.SelectCompletes := by
  unfold Obligations.SelectCompletes
  refine ⟨⟨rfl, rfl, rfl⟩, fun p e ch k rest hs hl hscript => ⟨?_, length_selectTrace .., _,
    exec_select hs hl ch, ?_⟩⟩
  · rintro hinv rfl
    obtain ⟨hconf, _⟩ := (idleInv_of_live hl).1 ((inv_idle hs).1 hinv)
    rw [gainOf_b, hconf.gainB]
  · obtain ⟨call, hrun⟩ := run_select .alone k rest (e.beginSelect ch .alone) rfl hscript
    rw [hs]
    exact ⟨_, _, hrun⟩

/-- Settles O23: the issue is `exec_shiftIn`, the steps are `run_shiftIn`. -/
theorem shiftInCompletes : Obligations.ShiftInCompletes := by
  unfold Obligations.ShiftInCompletes
  intro p e ch k b rest hs hl hb hscript tr
  have hlen : tr.length = k + 1 + frameEvents p := length_shiftInTrace _ _ k hb
  have hcount : ∀ l, tr.count (.write e.pinClock l) = p.sampleBits :=
    fun l => count_write_shiftInTrace _ _ l k hb
  have hreads : tr.countP PinEvent.isRead = k + 1 + p.sampledBits := countP_isRead_shiftInTrace _ _ k hb
  refine ⟨⟨hlen, hcount _, hcount _, hreads⟩, fun h24 h23 => ?_, _, exec_shiftIn hs hl ch, ?_⟩
  · have hlow : p.lowestBit = 1 := by rw [Params.lowestBit, h24, h23]
    refine ⟨?_, (hcount _).trans h24, (hcount _).trans h24, by omega, ?_⟩
    · rw [hlen, frameEvents, h23, hlow]
    · simp only [tr, shiftInTrace, hlow, pulseTrace]
  · obtain ⟨x, call, hrun⟩ := run_shiftIn .alone k b rest hb (e.beginShiftIn .alone) rfl hscript
    rw [hlen, hs]
    exact ⟨_, _, _, hrun⟩

/-- Settles O26: issuing looks at `SEQ` and `LIFE` alone, and the steps are `operate_withConfig`. -/
theorem shiftInIgnoresConfiguration : Obligations.ShiftInIgnoresConfiguration := by
  unfold Obligations.ShiftInIgnoresConfiguration
  intro p e ch ch' gA gB oA oB
  refine ⟨rfl, fun t ht => ?_⟩
  obtain ⟨hs, hl, rfl⟩ := exec_shiftIn_next_iff.1 ht
  refine ⟨exec_shiftIn_next_iff.2 ⟨hs, hl, rfl⟩, fun k u hu => ?_⟩
  obtain ⟨u', h, h', _⟩ := operate_withConfig (gA := gA) (gB := gB) (oA := oA) (oB := oB) k
    (e.beginShiftIn .alone) (.inr ⟨.poll, rfl⟩)
  cases hu.symm.trans h
  exact h'

/-- Settles O27: the wait of either procedure is the one of `run_polls`. -/
theorem highAnswersKeepItWaiting : Obligations.HighAnswersKeepItWaiting := by
  unfold Obligations.HighAnswersKeepItWaiting
  intro p e owner k rest hs hscript
  refine run_polls ?_ k e rfl hscript
  rcases hs with hs | hs
  · exact .inl ⟨owner, hs⟩
  · exact .inr ⟨owner, hs⟩

end Sys2Proof.Machine
end

section
/-! # The raw sample as a number (spec 40 R128, R130, R131, R135)

The sampled levels are the binary digits of the pattern above the bits that are never sampled, and
`RESULT` is that pattern in two's complement. -/

namespace Sys2Proof.Machine

variable {p : Params} {o : Owner p} {e : Engine p}

/-! ## Sign extension -/

theorem sext_toInt (b : p.Pattern) : (sext b).toInt = b.toInt :=
  BitVec.toInt_signExtend_of_le (sampleBits_lt_accW p).le

theorem pattern_msb (b : p.Pattern) : b.msb = b.getLsbD (p.sampleBits - 1) := BitVec.msb_eq_getLsbD_last b

/-- The sign extension of an accumulator that holds a sample and nothing else is that of the sample
(R130). -/
theorem signExtend_eq_sext {acc : p.Container} (h : acc.toNat < 2 ^ p.sampleBits) :
    signExtend acc = sext (acc.setWidth p.sampleBits) := by
  have hacc : acc = (acc.setWidth p.sampleBits).setWidth p.accW := by
    apply BitVec.eq_of_toNat_eq
    rw [BitVec.toNat_setWidth, BitVec.toNat_setWidth, Nat.mod_eq_of_lt h, Nat.mod_eq_of_lt acc.isLt]
  rw [← signExtend_zeroExtend, ← hacc]

/-- The last call of a frame is the falling edge, and the sample is used in the same step (R130, log 1). -/
theorem step_lastCall (h : LastCall o e) :
    step ⟨p, e⟩ = lift (afterShiftIn o (e.pinWrite .low).takeSample) := by
  rcases h with ⟨hs, hb⟩ | ⟨h0, hs, hb⟩
  · rw [step_of_busy (by simp [hs]), engineStep_shiftIn hs]
    exact congrArg lift (afterPlain_end (e := e.pinWrite .low) hb)
  · rw [step_of_busy (by simp [hs]), engineStep_shiftIn hs]
    exact congrArg lift (afterSample_end (e := e.pinWrite .low) (hb.trans h0.symm) h0)

/-! ## The number of the sampled levels -/

theorem samplePattern_toNat {b : List Level} (hb : b.length = p.sampledBits) :
    (samplePattern p b).toNat = 2 ^ p.lowestBit * levelsNat b := by
  rw [samplePattern, BitVec.toNat_ofNat]
  apply Nat.mod_eq_of_lt
  rw [← lowestBit_add p, pow_add, ← hb]
  exact Nat.mul_lt_mul_of_pos_left (levelsNat_lt b) (Nat.two_pow_pos _)

theorem decodeLevels_eq (b : List Level) : decodeLevels p b = (samplePattern p b).toInt := sext_toInt _

theorem decodeLevels_dvd {b : List Level} (hb : b.length = p.sampledBits) :
    (2 ^ p.lowestBit : Int) ∣ decodeLevels p b := by
  rw [decodeLevels_eq]
  exact dvd_pattern_toInt ⟨_, samplePattern_toNat hb⟩

theorem decodeLevels_rawRange {b : List Level} (hb : b.length = p.sampledBits) :
    RawRange p (decodeLevels p b) := by
  rw [decodeLevels_eq]
  exact pattern_rawRange ⟨_, samplePattern_toNat hb⟩

/-- The first level sampled has the weight of the sign, the others theirs (R131). -/
theorem decodeLevels_cons {l : Level} {ls : List Level} (hb : (l :: ls).length = p.sampledBits) :
    decodeLevels p (l :: ls) = -(l.bit : Int) * 2 ^ (p.sampleBits - 1) + 2 ^ p.lowestBit * levelsNat ls := by
  have hS : p.sampleBits = p.lowestBit + ls.length + 1 := by
    rw [← lowestBit_add p, ← hb, List.length_cons, Nat.add_assoc]
  have hlt : 2 ^ p.lowestBit * levelsNat ls < 2 ^ (p.sampleBits - 1) := by
    rw [hS, Nat.add_sub_cancel, pow_add]
    exact Nat.mul_lt_mul_of_pos_left (levelsNat_lt ls) (Nat.two_pow_pos _)
  have hnat : (samplePattern p (l :: ls)).toNat =
      l.bit * 2 ^ (p.sampleBits - 1) + 2 ^ p.lowestBit * levelsNat ls := by
    rw [samplePattern_toNat hb, levelsNat, hS, Nat.add_sub_cancel, pow_add]
    ring
  have hw : 2 ^ p.sampleBits = 2 * 2 ^ (p.sampleBits - 1) := by rw [hS, pow_succ', Nat.add_sub_cancel]
  rw [decodeLevels_eq, BitVec.toInt_eq_toNat_cond, hnat, hw]
  cases l with
  | low =>
    rw [if_pos (by simp only [Level.bit]; omega)]
    simp [Level.bit]
  | high =>
    rw [if_neg (by simp only [Level.bit]; omega)]
    push_cast [Level.bit]
    ring

/-! ## The levels of a chip pattern (R78, R135) -/

theorem levelsNat_concat (ls : List Level) (l : Level) :
    levelsNat (ls ++ [l]) = 2 * levelsNat ls + l.bit := by
  induction ls with
  | nil => simp [levelsNat]
  | cons l' ls ih =>
    simp only [List.cons_append, levelsNat, ih, List.length_append, List.length_singleton, pow_succ]
    ring

theorem bit_ofBool (b : Bool) : (Level.ofBool b).bit = b.toNat := by cases b <;> rfl

theorem patternLevels_length (b : p.Pattern) : (patternLevels b).length = p.sampledBits := by
  simp [patternLevels]

/-- The first `n` levels, from the sign bit down, are the digits of what stands above the rest. -/
theorem levelsNat_top_bits {w : Nat} (b : BitVec w) {n : Nat} (hn : n ≤ w) :
    levelsNat ((List.range n).map fun k => Level.ofBool (b.getLsbD (w - 1 - k))) =
      b.toNat / 2 ^ (w - n) := by
  induction n with
  | zero => simp [levelsNat, Nat.div_eq_of_lt b.isLt]
  | succ n ih =>
    have hi : w - n = w - (n + 1) + 1 := by omega
    rw [List.range_succ, List.map_append, List.map_singleton, levelsNat_concat, ih (by omega), bit_ofBool,
      BitVec.getLsbD, show w - 1 - n = w - (n + 1) by omega, Nat.toNat_testBit, hi, pow_succ,
      ← Nat.div_div_eq_div_mul]
    exact Nat.div_add_mod _ 2

theorem levelsNat_patternLevels (b : p.Pattern) :
    levelsNat (patternLevels b) = b.toNat / 2 ^ p.lowestBit :=
  levelsNat_top_bits b p.sampledSlots.2

/-- The pattern with the bits below the lowest sampled one cleared. -/
def sampledPart (b : p.Pattern) : p.Pattern := b &&& BitVec.allOnes p.sampleBits <<< p.lowestBit

theorem sampledPart_getLsbD (b : p.Pattern) (i : Nat) :
    (sampledPart b).getLsbD i = (decide (p.lowestBit ≤ i) && b.getLsbD i) := by
  by_cases hi : i < p.sampleBits
  · by_cases hl : p.lowestBit ≤ i
    · simp [sampledPart, hi, hl]
    · simp [sampledPart, hi, hl, Nat.not_le.1 hl]
  · simp [BitVec.getLsbD_of_ge _ i (not_lt.1 hi)]

theorem samplePattern_patternLevels (b : p.Pattern) : samplePattern p (patternLevels b) = sampledPart b := by
  apply BitVec.eq_of_getLsbD_eq
  intro i _
  rw [sampledPart_getLsbD, BitVec.getLsbD, BitVec.getLsbD, samplePattern_toNat (patternLevels_length b),
    levelsNat_patternLevels, Nat.testBit_two_pow_mul, Nat.testBit_div_two_pow]
  by_cases hl : p.lowestBit ≤ i
  · rw [Nat.sub_add_cancel hl]
  · simp [hl]

theorem sampledPart_toNat (b : p.Pattern) :
    (sampledPart b).toNat + b.toNat % 2 ^ p.lowestBit = b.toNat := by
  rw [← samplePattern_patternLevels, samplePattern_toNat (patternLevels_length b), levelsNat_patternLevels]
  exact Nat.div_add_mod ..

/-- The sign bit is always sampled (R90, R128). -/
theorem sampledPart_msb (b : p.Pattern) : (sampledPart b).msb = b.msb := by
  have := lowestBit_lt_sampleBits p
  rw [pattern_msb, pattern_msb, sampledPart_getLsbD, decide_eq_true (by omega), Bool.true_and]

theorem sampledPart_toInt (b : p.Pattern) :
    (sampledPart b).toInt = b.toInt - (b.toNat % 2 ^ p.lowestBit : Nat) := by
  have h := sampledPart_toNat b
  rw [BitVec.toInt_eq_msb_cond, BitVec.toInt_eq_msb_cond, sampledPart_msb]
  split <;> omega

theorem decodeLevels_patternLevels (b : p.Pattern) :
    decodeLevels p (patternLevels b) = (sampledPart b).toInt := by
  rw [decodeLevels_eq, samplePattern_patternLevels]

/-- Every value of the range that is a multiple of the weight of the lowest sampled bit is the sample of its
own pattern (R131). -/
theorem decodeLevels_patternLevels_ofInt {v : Int} (hdvd : (2 ^ p.lowestBit : Int) ∣ v) (h : RawRange p v) :
    decodeLevels p (patternLevels (BitVec.ofInt p.sampleBits v)) = v := by
  obtain ⟨hlo, hhi⟩ := h
  have hv : (BitVec.ofInt p.sampleBits v).toInt = v :=
    BitVec.toInt_ofInt_eq_self (one_le_sampleBits p) hlo (hhi.trans_lt (rawMax_lt p))
  have hbits : (BitVec.ofInt p.sampleBits v).toNat % 2 ^ p.lowestBit = 0 := by
    have hdvd' := decodeLevels_dvd (patternLevels_length (BitVec.ofInt p.sampleBits v))
    rw [decodeLevels_patternLevels, sampledPart_toInt, hv, dvd_sub_right hdvd] at hdvd'
    exact Nat.eq_zero_of_dvd_of_lt (by exact_mod_cast hdvd') (Nat.mod_lt _ (Nat.two_pow_pos _))
  rw [decodeLevels_patternLevels, sampledPart_toInt, hv, hbits, Nat.cast_zero, sub_zero]

theorem rawRange_literal_iff {v : Int} : RawRange Params.literal v ↔ -8388608 ≤ v ∧ v ≤ 8388606 := Iff.rfl

/-! ## The statements -/

/-- Settles O24: the number by the sign bit, and the last call by `step_lastCall`. -/
theorem signExtensionLaw : Obligations.SignExtensionLaw := by
  unfold Obligations.SignExtensionLaw
  refine ⟨fun p b => ?_, fun p e hlast hacc => ⟨_, step_lastCall hlast, signExtend_eq_sext hacc, rfl, rfl⟩,
    rfl, by decide⟩
  rw [sext_toInt, BitVec.toInt_eq_msb_cond, pattern_msb]
  norm_cast

/-- Settles O25: the sample as a sum of weights, and the sample of a pattern as the part of it that is
sampled. -/
theorem rawSampleShape : Obligations.RawSampleShape := by
  unfold Obligations.RawSampleShape
  refine ⟨fun p l ls hb => ⟨samplePattern_toNat hb, decodeLevels_cons hb, decodeLevels_dvd hb,
      decodeLevels_rawRange hb⟩,
    fun p v hdvd hv => ⟨_, patternLevels_length _, decodeLevels_patternLevels_ofInt hdvd hv⟩,
    fun p b => ⟨patternLevels_length b, decodeLevels_patternLevels b, ?_⟩,
    rfl, rfl, rfl, by decide, fun v => rawRange_literal_iff⟩
  rw [decodeLevels_patternLevels, sampledPart_toInt]

end Sys2Proof.Machine
end

section
/-! # Gain configuration (spec 41 R140 to R142)

SETGAIN is complete when it is issued: what it leads to is the guard `offerGain` alone. -/

namespace Sys2Proof.Machine

variable {p : Params} {e t : Engine p} {ch : Channel} {g : GainSetting}

theorem offerGain_of_inFamily (h : inFamily ch g = true) (e : Engine p) :
    e.offerGain ch g = e.setGain ch g := if_pos h

theorem offerGain_of_not_inFamily (h : inFamily ch g = false) (e : Engine p) :
    e.offerGain ch g = e := by
  rw [Engine.offerGain, h, if_neg Bool.false_ne_true]

/-- To store a setting twice is to store it once. -/
theorem setGain_setGain (ch : Channel) (g : GainSetting) (e : Engine p) :
    (e.setGain ch g).setGain ch g = e.setGain ch g := by
  cases ch <;> rfl

/-- To offer a setting twice is to offer it once: the guard looks at the operands only (R142). -/
theorem offerGain_offerGain (ch : Channel) (g : GainSetting) (e : Engine p) :
    (e.offerGain ch g).offerGain ch g = e.offerGain ch g := by
  cases h : inFamily ch g with
  | true => simp only [offerGain_of_inFamily h, setGain_setGain]
  | false => simp only [offerGain_of_not_inFamily h]

theorem exec_setGain (hs : e.seq = .idle) (hl : e.life = .live) (ch : Channel) (g : GainSetting) :
    exec (.setGain ch g) ⟨p, e⟩ = .next ⟨p, e.offerGain ch g⟩ :=
  congrArg lift (whenLive_of_live hs hl _)

theorem exec_setGain_of_inFamily (hs : e.seq = .idle) (hl : e.life = .live) (h : inFamily ch g = true) :
    exec (.setGain ch g) ⟨p, e⟩ = .next ⟨p, e.setGain ch g⟩ := by
  rw [exec_setGain hs hl, offerGain_of_inFamily h]

theorem exec_setGain_of_not_inFamily (hs : e.seq = .idle) (hl : e.life = .live)
    (h : inFamily ch g = false) : exec (.setGain ch g) ⟨p, e⟩ = .next ⟨p, e⟩ := by
  rw [exec_setGain hs hl, offerGain_of_not_inFamily h]

theorem exec_setGain_next (h : exec (.setGain ch g) ⟨p, e⟩ = .next ⟨p, t⟩) :
    e.seq = .idle ∧ e.life = .live ∧ t = e.offerGain ch g := by
  obtain ⟨hs, hl, ht⟩ := whenLive_next_iff.1 (lift_next_mk_iff.1 h)
  cases ht
  exact ⟨hs, hl, rfl⟩

/-- SETGAIN leaves the engine idle and LIVE, so it may be issued again (R142). -/
theorem exec_setGain_again (h : exec (.setGain ch g) ⟨p, e⟩ = .next ⟨p, t⟩) :
    exec (.setGain ch g) ⟨p, t⟩ = .next ⟨p, t⟩ := by
  obtain ⟨hs, hl, rfl⟩ := exec_setGain_next h
  obtain ⟨_, _, hframe⟩ := offerGain_frame ch g e
  have hs' : (e.offerGain ch g).seq = .idle := by rw [hframe]; exact hs
  have hl' : (e.offerGain ch g).life = .live := by rw [hframe]; exact hl
  rw [exec_setGain hs' hl', offerGain_offerGain]

/-- Settles O21: each pair of the table by its side of the guard, and idempotence by
`exec_setGain_again`. -/
theorem setGainTable : Obligations.SetGainTable := by
  unfold Obligations.SetGainTable
  refine ⟨fun p e hs hl => ⟨?a128, ?a64, ?a32, ?b128, ?b64, ?b32⟩, fun s t ch g h => ?again⟩
  case a128 | a64 | b32 => exact exec_setGain_of_inFamily hs hl rfl
  case a32 | b128 | b64 => exact exec_setGain_of_not_inFamily hs hl rfl
  case again =>
    obtain ⟨u, rfl, hu⟩ := exec_next h
    exact exec_setGain_again hu

end Sys2Proof.Machine
end

section
/-! # The calibrated read (spec 42)

READRAW and READCAL as commands of their own: their steps are those of `run_reading`, and READCAL then scales
the difference of sample and offset. In the reachable ranges the product fits its register and is exact, so
that no step of the invariant's states is refused for it. -/

namespace Sys2Proof.Machine

variable {p : Params} {o : Owner p} {e : Engine p}

/-! ## Issuing the two commands -/

theorem exec_readRaw (hs : e.seq = .idle) (hl : e.life = .live) (ch : Channel) :
    exec (.readRaw ch) ⟨p, e⟩ = .next ⟨p, e.beginSelect ch (.readRaw ch)⟩ :=
  congrArg lift (whenLive_of_live hs hl _)

theorem exec_readCal (hs : e.seq = .idle) (hl : e.life = .live) (ch : Channel) :
    exec (.readCal ch) ⟨p, e⟩ = .next ⟨p, e.beginSelect ch (.readCal ch)⟩ :=
  congrArg lift (whenLive_of_live hs hl _)

/-! ## What the trace of a READRAW counts (R151) -/

theorem Reading.length_trace (data clk : p.PinId) (n : Nat) {r : Reading} (hr : r.Full p) :
    (r.trace data clk n).length = r.events p n := by
  rw [Reading.trace, readTrace, List.length_append, length_selectTrace, length_shiftInTrace _ _ _ hr,
    Reading.events]

/-- Each selection pulse and each slot of the frame writes each level once (R121, R132). -/
theorem Reading.count_write_trace (data clk : p.PinId) (l : Level) (n : Nat) {r : Reading}
    (hr : r.Full p) : (r.trace data clk n).count (.write clk l) = n + p.sampleBits := by
  rw [Reading.trace, readTrace, List.count_append, count_write_shiftInTrace _ _ l _ hr, selectTrace,
    List.count_append, count_write_waitTrace, count_write_pulseTrace, Nat.zero_add]

theorem frameEvents_of_default (h24 : p.sampleBits = 24) (h23 : p.sampledBits = 23) :
    frameEvents p = 71 := by
  rw [frameEvents, Params.lowestBit, h24, h23]

/-! ## The divisor and the scale (R153) -/

/-- Each divisor of the table is a power of two up to `2 ^ 7`, which is what `FRAC_BITS` has room for. -/
theorem divisor_dvd (p : Params) (ch : Channel) (g : GainSetting) : divisor ch g ∣ 2 ^ p.fracBits := by
  have h128 : divisor ch g ∣ 2 ^ 7 := by cases ch <;> cases g <;> decide
  exact h128.trans (pow_dvd_pow 2 p.exactScale)

/-- Channel B's divisor does not depend on a gain. -/
theorem divisor_b (g : GainSetting) : divisor .b g = 32 := rfl

theorem divisor_pos (ch : Channel) (g : GainSetting) : 0 < divisor ch g := by
  cases ch <;> cases g <;> decide

theorem scale_mul_divisor (p : Params) (ch : Channel) (g : GainSetting) :
    scale p ch g * divisor ch g = 2 ^ p.fracBits :=
  Nat.div_mul_cancel (divisor_dvd p ch g)

theorem scale_pos (p : Params) (ch : Channel) (g : GainSetting) : 0 < scale p ch g :=
  Nat.div_pos (Nat.le_of_dvd (Nat.two_pow_pos _) (divisor_dvd p ch g)) (divisor_pos ch g)

/-- The fallback divisor is that of no setting of channel A's family (R28, R153). -/
theorem divisor_a_ne_one {g : GainSetting} (h : inFamily .a g = true) : divisor .a g ≠ 1 := by
  cases g with
  | g128 | g64 => decide
  | g32 => cases h

/-! ## The calibrated result (R154, R155) -/

theorem calMax_lt_container (p : Params) : calMax p < 2 ^ (p.accW - 1) :=
  (calMax_lt p).trans_le (pow_le_pow_right₀ (by decide) (by have := p.resultFits; omega))

section

variable {raw off : Int} (ch : Channel) (g : GainSetting)

theorem fixedPoint_natAbs :
    (fixedPoint p ch g raw off).natAbs = (raw - off).natAbs * scale p ch g := by
  rw [fixedPoint, Int.natAbs_mul, Int.natAbs_natCast]

theorem fixedPoint_eq_zero_iff : fixedPoint p ch g raw off = 0 ↔ raw = off := by
  have hscale : (scale p ch g : Int) ≠ 0 := by exact_mod_cast (scale_pos p ch g).ne'
  rw [fixedPoint, mul_eq_zero_iff_right hscale, sub_eq_zero]

/-- A product of values in the range of raw samples fits its register (R155). -/
theorem fixedPoint_fits (hr : RawRange p raw) (ho : RawRange p off) :
    (fixedPoint p ch g raw off).natAbs < 2 ^ (p.accW - 1) := by
  have h := (abs_fixedPoint_le hr ho ch g).trans_lt (calMax_lt_container p)
  rw [Int.abs_eq_natAbs] at h
  exact_mod_cast h

/-- A product that fits stands for the exact quotient: the scale times the divisor is one unit (R33, R154). -/
theorem resultValue_fixedPoint (h : (fixedPoint p ch g raw off).natAbs < 2 ^ (p.accW - 1)) :
    resultValue (BitVec.ofInt p.accW (fixedPoint p ch g raw off) : p.Container) =
      calibratedValue ch g raw off := by
  have hdiv : (divisor ch g : Rat) ≠ 0 := by exact_mod_cast (divisor_pos ch g).ne'
  have hunit : (scale p ch g : Rat) * divisor ch g = 2 ^ p.fracBits := by
    exact_mod_cast scale_mul_divisor p ch g
  rw [resultValue, toInt_ofInt_of_fits h, calibratedValue, div_eq_div_iff (by positivity) hdiv, fixedPoint,
    ← hunit]
  push_cast
  ring

theorem ofInt_eq_zero_iff_of_fits {v : Int} (h : v.natAbs < 2 ^ (p.accW - 1)) :
    BitVec.ofInt p.accW v = 0 ↔ v = 0 := by
  rw [← BitVec.toInt_inj, toInt_ofInt_of_fits h]
  simp

end

/-- The refusal of a product that does not fit, with the gain, the raw sample and the offset named (R156). -/
theorem calibratedThen_refused_of {ch : Channel} {k : Engine p → Outcome p} {g : GainSetting} {raw off : Int}
    (hg : e.gainA = g) (hr : e.result.toInt = raw) (ho : (e.offsetOf ch).toInt = off)
    (h : 2 ^ (p.accW - 1) ≤ (fixedPoint p ch g raw off).natAbs) :
    calibratedThen ch k e = .refused .resultOverflow := by
  subst hg hr ho
  exact calibratedThen_refused h

/-! ## Where a step is refused -/

/-- A meaning behind the check is refused by the check, or by itself (R193). -/
theorem whenIdle_refused {k : Outcome p} {x : Refusal} (h : whenIdle e k = .refused x) :
    x = .busy ∨ k = .refused x := by
  by_cases hs : e.seq = .idle
  · exact .inr (whenIdle_of_idle hs k ▸ h)
  · rw [whenIdle_of_busy hs] at h
    cases h
    exact .inl rfl

theorem whenLive_refused {k : Outcome p} {x : Refusal} (h : whenLive e k = .refused x) :
    x = .busy ∨ x = .wrongLifecycle ∨ k = .refused x := by
  rcases whenIdle_refused h with hx | h
  · exact .inl hx
  · split_ifs at h
    · exact .inr (.inr h)
    · cases h
      exact .inr (.inl rfl)

theorem calibrateLoop_not_refused (ch : Channel) (n : p.Count) (x : Refusal) :
    calibrateLoop ch n e ≠ .refused x := by
  intro h
  rcases calibrateLoop_cases h with ⟨_, h⟩ | ⟨_, _, h⟩ | ⟨_, _, h⟩ <;> cases h

theorem avgReadLoop_not_refused (ch : Channel) (n : p.Count) (x : Refusal) :
    avgReadLoop ch n e ≠ .refused x := by
  intro h
  rcases avgReadLoop_cases h with ⟨_, h⟩ | ⟨_, _, h⟩ | ⟨_, _, h⟩ <;> cases h

theorem pulseLoop_not_refused (x : Refusal) : pulseLoop o (afterSelect o) e ≠ .refused x := by
  intro h
  rcases pulseLoop_cases h with ⟨_, h⟩ | ⟨_, h⟩
  · rcases afterSelect_cases o e with ⟨_, h'⟩ | ⟨_, h'⟩ <;> cases h.trans h'
  · cases h

/-- No command is refused at its issue for a result (R191, R193). -/
theorem exec_not_resultOverflow (i : Instr) : exec i ⟨p, e⟩ ≠ .refused .resultOverflow := by
  have hlive : ∀ k : Outcome p, k ≠ .refused .resultOverflow →
      lift (whenLive e k) ≠ .refused .resultOverflow := by
    intro k hk h
    rcases whenLive_refused (lift_refused_iff.1 h) with h | h | h
    · cases h
    · cases h
    · exact hk h
  cases i with
  | construct d c =>
    intro h
    rcases whenIdle_refused (lift_refused_iff.1 h) with h | h
    · cases h
    · split_ifs at h <;> cases h
  | calibrate ch n => exact hlive _ (calibrateLoop_not_refused _ _ _)
  | avgRead ch n => exact hlive _ (avgReadLoop_not_refused _ _ _)
  | teardown | setGain | select | shiftIn | readRaw | readCal => exact hlive _ (by simp)

/-- In the ranges of the invariant nothing that follows a raw sample is refused, in READCAL or AVGREAD
(R155, R156). -/
theorem afterShiftIn_not_refused (hc : Configured e) (hr : RawRange p e.result.toInt) (x : Refusal) :
    afterShiftIn o e ≠ .refused x := by
  intro h
  cases o with
  | alone | readRaw => cases h
  | calibrate ch n => exact calibrateLoop_not_refused ch n x h
  | readCal ch =>
    rw [afterShiftIn, calibratedThen_fits (fixedPoint_fits ch e.gainA hr (hc.offsetOf ch))] at h
    cases h
  | avgRead ch n =>
    rw [afterShiftIn, calibratedThen_fits (fixedPoint_fits ch e.gainA hr (hc.offsetOf ch))] at h
    exact avgReadLoop_not_refused ch n x h

/-- An engine step is refused only in what follows the sample, at SHIFTIN's last call (log 12). -/
theorem engineStep_refused {x : Refusal} (h : engineStep e = .refused x) :
    ∃ o, LastCall o e ∧ afterShiftIn o (e.pinWrite .low).takeSample = .refused x := by
  cases hs : e.seq with
  | idle => simp only [engineStep, hs] at h; cases h
  | construct call => rw [engineStep_construct hs] at h; cases h
  | teardown call => rw [engineStep_teardown hs] at h; cases h
  | select call o =>
    rw [engineStep_select hs] at h
    cases call with
    | poll =>
      rcases waitReady_cases h with ⟨_, h⟩ | ⟨_, h⟩
      · cases h
      · exact absurd h.symm (pulseLoop_not_refused x)
    | rise => cases h
    | fall => exact absurd h (pulseLoop_not_refused x)
  | shiftIn call o =>
    rw [engineStep_shiftIn hs] at h
    cases call with
    | poll =>
      rw [shiftInStep] at h
      rcases waitReady_cases h with ⟨_, h⟩ | ⟨_, h⟩ <;> cases h
    | rise | sample | plainRise => cases h
    | fall =>
      rcases afterSample_cases h with ⟨_, h⟩ | ⟨_, _, h⟩ | ⟨hb, h0, h⟩
      · cases h
      · cases h
      · exact ⟨o, .inr ⟨h0, hs, hb.trans h0⟩, h.symm⟩
    | plainFall =>
      rcases afterPlain_cases h with ⟨_, h⟩ | ⟨hb, h⟩
      · cases h
      · exact ⟨o, .inl ⟨hs, hb⟩, h.symm⟩

/-- At SHIFTIN's last call the accumulator holds a whole sample and nothing else (R30, R128). -/
theorem LastCall.acc_of_inv (hlast : LastCall o e) (h : e.Inv) :
    Configured e ∧ e.acc.toNat < 2 ^ p.sampleBits ∧ 2 ^ p.lowestBit ∣ e.acc.toNat := by
  rcases hlast with ⟨hs, _⟩ | ⟨h0, hs, hb⟩
  · obtain ⟨hr, _, _, _, hlt, hdvd⟩ := (inv_shiftIn .plainFall hs).1 h
    exact ⟨hr.configured, hlt, hdvd⟩
  · obtain ⟨hr, _, _, _, hlt, hdvd⟩ := (inv_shiftIn .fall hs).1 h
    rw [hb, ← h0] at hdvd
    exact ⟨hr.configured, hlt, hdvd⟩

/-- In a state of the invariant the engine's own steps are never refused. -/
theorem engineStep_not_refused (h : e.Inv) (x : Refusal) : engineStep e ≠ .refused x := by
  intro hx
  obtain ⟨o, hlast, hx⟩ := engineStep_refused hx
  obtain ⟨hc, hlt, hdvd⟩ := hlast.acc_of_inv h
  exact afterShiftIn_not_refused (e := (e.pinWrite .low).takeSample) { hc with }
    (signExtend_rawRange hlt hdvd) x hx

/-! ## The statements -/

/-- Settles O28: the issue is `exec_readRaw`, the steps are `run_reading`. -/
theorem readRawCompletes : Obligations.ReadRawCompletes := by
  unfold Obligations.ReadRawCompletes
  refine ⟨fun r h1 h2 => ?_, ?_⟩
  · simp only [Reading.events, h1, h2]
    decide
  · intro p e ch r rest hs hl hr hscript n tr
    have hlen : tr.length = r.events p n := Reading.length_trace _ _ n hr
    have hcount : tr.count (.write e.pinClock .high) = n + p.sampleBits :=
      Reading.count_write_trace _ _ _ n hr
    refine ⟨⟨hcount, hlen, fun h24 h23 => ⟨h24 ▸ hcount, ?_⟩⟩, _, exec_readRaw hs hl ch, ?_⟩
    · rw [hlen, Reading.events, frameEvents_of_default h24 h23]
      omega
    · obtain ⟨x, call, hrun⟩ := run_reading (.readRaw ch) (by simp) r hr rest (e.beginSelect ch (.readRaw ch))
        rfl hscript
      rw [hlen, hs]
      exact ⟨_, _, _, _, hrun⟩

/-- Settles O29: the steps of READRAW, and then the path of a product that fits. -/
theorem readCalCompletes : Obligations.ReadCalCompletes := by
  unfold Obligations.ReadCalCompletes
  refine ⟨rfl, rfl, ?_⟩
  intro p e ch r rest hs hl hr hscript n value hfits
  refine ⟨_, exec_readCal hs hl ch, ?_⟩
  obtain ⟨x, call, hrun⟩ := run_reading (.readCal ch) (by simp) r hr rest (e.beginSelect ch (.readCal ch))
    rfl hscript
  rw [afterShiftIn, calibratedThen_of (g := e.gainA) (raw := r.raw p) (off := (e.offsetOf ch).toInt)
    ?gain ?raw ?offset hfits] at hrun
  case gain | raw => rfl
  case offset => exact congrArg _ (offsetOf_congr rfl rfl)
  rw [hs]
  exact ⟨_, _, _, _, hrun⟩

/-- Settles O30: the steps of READRAW, the last of which meets a product that does not fit. -/
theorem readCalRefusesWhatDoesNotFit : Obligations.ReadCalRefusesWhatDoesNotFit := by
  unfold Obligations.ReadCalRefusesWhatDoesNotFit
  intro p e ch r rest hs hl hr hscript hlarge
  refine ⟨_, exec_readCal hs hl ch, ?_⟩
  obtain ⟨x, call, hrun⟩ := run_reading (.readCal ch) (by simp) r hr rest (e.beginSelect ch (.readCal ch))
    rfl hscript
  rw [afterShiftIn, calibratedThen_refused_of (g := e.gainA) (raw := r.raw p) (off := (e.offsetOf ch).toInt)
    ?gain ?raw ?offset ((fixedPoint_natAbs ..).symm ▸ hlarge)] at hrun
  case gain | raw => rfl
  case offset => exact congrArg _ (offsetOf_congr rfl rfl)
  exact hrun

/-- Settles O31: the rows, the scale by divisibility, and the fallback row by channel A's family. -/
theorem divisorTable : Obligations.DivisorTable := by
  unfold Obligations.DivisorTable
  refine ⟨rfl, rfl, rfl, rfl, rfl, rfl, fun g => ⟨divisor_b g, by rw [scale, divisor_b]; rfl⟩,
    scale_mul_divisor, fun p e h hs hl hreset => ?_⟩
  obtain ⟨hc, _⟩ := (idleInv_of_live hl).1 ((inv_idle hs).1 h)
  exact divisor_a_ne_one (hc.gainA hreset)

/-- Settles O32: the bounds of the invariant's numbers, and from the product fitting that nothing is lost. -/
theorem calibratedResultIsExact : Obligations.CalibratedResultIsExact := by
  unfold Obligations.CalibratedResultIsExact
  refine ⟨⟨rfl, rfl⟩, fun p ch g raw off hr ho => ?_⟩
  have hfits := fixedPoint_fits ch g hr ho
  exact ⟨abs_sub_le_of_rawRange hr ho, abs_fixedPoint_le hr ho ch g, calMax_lt_container p,
    toInt_ofInt_of_fits hfits, resultValue_fixedPoint ch g hfits,
    (ofInt_eq_zero_iff_of_fits hfits).trans (fixedPoint_eq_zero_iff ch g)⟩

/-- Settles O44: the engine's own steps are not refused, and HOST's for other reasons. -/
theorem noResultOverflowUnderTheInvariant : Obligations.NoResultOverflowUnderTheInvariant := by
  unfold Obligations.NoResultOverflowUnderTheInvariant
  rintro ⟨p, e⟩ h hx
  rcases step_cases hx with ⟨_, hr⟩ | ⟨_, _, hr⟩ | ⟨_, _, i, _, _, _, hr⟩ | ⟨_, _, _, _, _, _, hr⟩
  · exact engineStep_not_refused h _ (lift_refused_iff.1 hr.symm)
  · cases hr
  · exact exec_not_resultOverflow i hr.symm
  · cases hr

end Sys2Proof.Machine
end

section
/-! # Calibration (spec 43)

CALIBRATE's loop is an induction over its readings: each turn is a `run_reading` that adds its sample to
`SUM`, and the last one stores the truncated mean. That no sum and no mean is lost rests on the bounds of a
sum of raw samples (R31, R163), which are also what R163 says of the stored offset. -/

namespace Sys2Proof.Machine

variable {p : Params} {e : Engine p} {ch : Channel} {n : p.Count}

/-! ## Readings one after another -/

@[simp] theorem scripts_cons (r : Reading) (rs : List Reading) : scripts (r :: rs) = r.script ++ scripts rs :=
  rfl

@[simp] theorem traces_cons (data clk : p.PinId) (k : Nat) (r : Reading) (rs : List Reading) :
    traces data clk k (r :: rs) = r.trace data clk k ++ traces data clk k rs := rfl

@[simp] theorem eventsOf_cons (k : Nat) (r : Reading) (rs : List Reading) :
    eventsOf p k (r :: rs) = r.events p k + eventsOf p k rs := rfl

theorem scripts_singleton (r : Reading) : scripts [r] = r.script := List.append_nil _

theorem traces_singleton (data clk : p.PinId) (k : Nat) (r : Reading) :
    traces data clk k [r] = r.trace data clk k := List.append_nil _

theorem eventsOf_singleton (k : Nat) (r : Reading) : eventsOf p k [r] = r.events p k := Nat.add_zero _

theorem rawSum_concat (rs : List Reading) (r : Reading) : rawSum p (rs ++ [r]) = rawSum p rs + r.raw p := by
  simp [rawSum]

theorem Reading.raw_rawRange {r : Reading} (hr : r.Full p) : RawRange p (r.raw p) := decodeLevels_rawRange hr

/-- The state that a READRAW with `k` pulses and the answers `r` leaves to what follows its sample. -/
def Engine.afterReading (o : Owner p) (k : Nat) (r : Reading) (rest : List Level) (x : BitVec 5)
    (call : ShiftInCall) (e : Engine p) : Engine p :=
  { e with
    script := rest
    trace := e.trace ++ r.trace e.pinData e.pinClock k
    pcnt := 0
    acc := sext (samplePattern p r.bits)
    result := sext (samplePattern p r.bits)
    bit := x
    clkOut := .low
    seq := .shiftIn call o }

theorem run_to_afterReading (o : Owner p) (ho : o ≠ .alone) {r : Reading} (hr : r.Full p) {rest : List Level}
    (h : e.seq = .select .poll o) (hs : e.script = r.script ++ rest) :
    ∃ x call, run (r.events p e.pcnt) ⟨p, e⟩ =
      lift (afterShiftIn o (e.afterReading o e.pcnt r rest x call)) :=
  run_reading o ho r hr rest e h hs

/-! ## The sum and the mean of raw samples (R161, R163) -/

theorem rawSum_bounds {rs : List Reading} (hrs : ∀ r ∈ rs, r.Full p) :
    rs.length * -2 ^ (p.sampleBits - 1) ≤ rawSum p rs ∧ rawSum p rs ≤ rs.length * rawMax p := by
  have hrange : ∀ v ∈ rs.map (Reading.raw p), RawRange p v :=
    List.forall_mem_map.2 fun r hr => r.raw_rawRange (hrs r hr)
  have hlo := List.card_nsmul_le_sum _ _ fun v hv => (hrange v hv).1
  have hhi := List.sum_le_card_nsmul _ _ fun v hv => (hrange v hv).2
  rw [List.length_map, nsmul_eq_mul] at hlo hhi
  exact ⟨hlo, hhi⟩

theorem mean_rawRange {rs : List Reading} (hne : rs ≠ []) (hrs : ∀ r ∈ rs, r.Full p) :
    RawRange p (truncdiv (rawSum p rs) rs.length) :=
  truncdiv_rawRange (List.length_pos_of_ne_nil hne) (rawSum_bounds hrs).1 (rawSum_bounds hrs).2

theorem fitted_eq_ofInt_of_rawRange {v : Int} (h : RawRange p v) : fitted p.accW v = BitVec.ofInt p.accW v := by
  rw [← BitVec.ofInt_toInt (x := fitted p.accW v), fitted_rawRange h]

theorem ofInt_toInt_of_rawRange {v : Int} (h : RawRange p v) : (BitVec.ofInt p.accW v).toInt = v := by
  rw [← fitted_eq_ofInt_of_rawRange h, fitted_rawRange h]

theorem rawSum_of_constant {rs : List Reading} {V : Int} (h : ∀ r ∈ rs, r.raw p = V) :
    rawSum p rs = rs.length * V := by
  rw [rawSum, List.map_congr_left h, List.map_const', List.sum_replicate, nsmul_eq_mul]

theorem mean_of_constant {rs : List Reading} {V : Int} (hne : rs ≠ []) (h : ∀ r ∈ rs, r.raw p = V) :
    truncdiv (rawSum p rs) rs.length = V := by
  have hlen : (rs.length : Int) ≠ 0 := by exact_mod_cast (List.length_pos_of_ne_nil hne).ne'
  rw [rawSum_of_constant h, truncdiv, Int.mul_tdiv_cancel_left _ hlen]

/-- The write of one offset register, as an update of both. -/
theorem setOffset_eq (ch : Channel) (v : p.Container) (e : Engine p) : e.setOffset ch v = { e with
    offsetA := if ch = .a then v else e.offsetA
    offsetB := if ch = .b then v else e.offsetB } := by
  cases ch with
  | a => rfl
  | b => rfl

/-- The end of CALIBRATE leaves the registers it used at free values and every other one as it was (log 8). -/
theorem release_calibrate (e : Engine p) :
    ∃ (x : Nat) (v : p.Container) (w : BitVec 5) (m : p.Sum) (c : p.Count) (d : Nat),
      e.releasePulses.releaseShift.releaseSum.finish = { e with
        pcnt := x
        acc := v
        bit := w
        sum := m
        cnt := c
        draws := d
        seq := .idle } := ⟨_, _, _, _, _, _, rfl⟩

/-! ## Issuing the command -/

theorem exec_calibrate (hs : e.seq = .idle) (hl : e.life = .live) (ch : Channel) (n : p.Count) :
    exec (.calibrate ch n.toNat) ⟨p, e⟩ = lift (calibrateLoop ch n { e with sum := 0, cnt := n }) := by
  have hcount : BitVec.ofNat p.cntW n.toNat = n := by simp
  calc exec (.calibrate ch n.toNat) ⟨p, e⟩
      = lift (e.beginCalibrate ch (BitVec.ofNat p.cntW n.toNat)) := rfl
    _ = lift (e.beginCalibrate ch n) := by rw [hcount]
    _ = _ := congrArg lift (whenLive_of_live hs hl _)

/-! ## The loop (R160) -/

/-- The head of a read of CALIBRATE that has made the reads `done` with `k` pulses each: `SUM` is their exact
sum, and `CNT` says how many of `n` are left. -/
structure CalibrateTurn (ch : Channel) (n : p.Count) (k : Nat) (done : List Reading) (e : Engine p) : Prop where
  seq : e.seq = .select .poll (.calibrate ch n)
  pcnt : e.pcnt = k
  gain : pulses p (e.gainOf ch) = k
  full : ∀ r ∈ done, r.Full p
  sum : e.sum.toInt = rawSum p done
  count : done.length + e.cnt.toNat = n.toNat

theorem calibrateTurn_begin (e : Engine p) :
    CalibrateTurn ch n (pulses p (e.gainOf ch)) []
      (Engine.beginSelect ch (.calibrate ch n) { e with sum := 0, cnt := n }) where
  seq := rfl
  pcnt := rfl
  gain := congrArg (pulses p) (gainOf_congr rfl rfl)
  full := List.forall_mem_nil _
  sum := BitVec.toInt_zero
  count := Nat.zero_add _

/-- A read of CALIBRATE comes to the loop's test with its sample added. -/
theorem CalibrateTurn.run_reading {k : Nat} {done : List Reading} {r : Reading} {rest : List Level}
    (h : CalibrateTurn ch n k done e) (hr : r.Full p) (hs : e.script = r.script ++ rest) :
    ∃ x call, run (r.events p k) ⟨p, e⟩ =
      lift (calibrateLoop ch n (e.afterReading (.calibrate ch n) k r rest x call).addRaw) := by
  rw [← h.pcnt]
  exact run_to_afterReading _ (by simp) hr h.seq hs

section

variable {done : List Reading} {r : Reading} {rest : List Level} {y : BitVec 5} {call : ShiftInCall}
  {o : Owner p} {k : Nat}

/-- Reading another sample adds it to `SUM` exactly (R31), and leaves one read less to make. -/
theorem CalibrateTurn.add (h : CalibrateTurn ch n k done e) (hr : r.Full p) (hleft : 1 ≤ e.cnt.toNat) :
    let t := (e.afterReading o k r rest y call).addRaw
    (∀ x ∈ done ++ [r], x.Full p) ∧ t.sum.toInt = rawSum p (done ++ [r]) ∧
      (done ++ [r]).length + t.cnt.toNat = n.toNat := by
  intro t
  have hcount := h.count
  have hfull : ∀ x ∈ done ++ [r], x.Full p := List.forall_mem_append.2 ⟨h.full, by simpa using hr⟩
  have hlen : (done ++ [r]).length = done.length + 1 := List.length_append
  have hcnt : t.cnt.toNat = e.cnt.toNat - 1 := toNat_sub_one hleft
  have hsum : e.sum.toInt + r.raw p = rawSum p (done ++ [r]) := by rw [h.sum, rawSum_concat]
  obtain ⟨hlo, hhi⟩ := rawSum_bounds hfull
  refine ⟨hfull, ?_, by rw [hcnt]; omega⟩
  calc t.sum.toInt
      = (fitted p.sumW (e.sum.toInt + r.raw p)).toInt := rfl
    _ = (fitted p.sumW (rawSum p (done ++ [r]))).toInt := by rw [hsum]
    _ = _ := fitted_toInt (by have := p.sumFits; have := one_le_sampleBits p; omega)
      (rawSum_fits (by have := n.isLt; omega) hlo hhi (by omega))

/-- After a read that is not the last, the next one begins. -/
theorem CalibrateTurn.next (h : CalibrateTurn ch n k done e) (hr : r.Full p) (hmore : 2 ≤ e.cnt.toNat) :
    let t := (e.afterReading o k r rest y call).addRaw
    calibrateLoop ch n t = .next (t.beginSelect ch (.calibrate ch n)) ∧
      CalibrateTurn ch n k (done ++ [r]) (t.beginSelect ch (.calibrate ch n)) := by
  obtain ⟨hfull, hsum, hcount⟩ := h.add (o := o) (rest := rest) (y := y) (call := call) hr (by omega)
  intro t
  have hcnt : t.cnt.toNat = e.cnt.toNat - 1 := toNat_sub_one (x := e.cnt) (by omega)
  have hne : t.cnt ≠ 0 := by
    intro h0
    simp only [h0, BitVec.ofNat_eq_ofNat, BitVec.toNat_zero] at hcnt
    omega
  have hgain : pulses p (t.gainOf ch) = k := h.gain ▸ congrArg (pulses p) (gainOf_congr rfl rfl)
  exact ⟨calibrateLoop_more hne, rfl, hgain, hgain, hfull, hsum, hcount⟩

/-- After the last read, the mean of all of them is stored and the registers used are released. -/
theorem CalibrateTurn.last (h : CalibrateTurn ch n k done e) (hr : r.Full p) (hone : e.cnt.toNat = 1) :
    let t := (e.afterReading o k r rest y call).addRaw
    calibrateLoop ch n t =
      .next (t.setOffset ch (BitVec.ofInt p.accW (truncdiv (rawSum p (done ++ [r])) n.toNat))
        ).releasePulses.releaseShift.releaseSum.finish := by
  obtain ⟨hfull, hsum, hcount⟩ := h.add (o := o) (rest := rest) (y := y) (call := call) hr (by omega)
  intro t
  have hcnt : t.cnt.toNat = 0 := (toNat_sub_one hone.ge).trans (by rw [hone])
  have hlen : (done ++ [r]).length = n.toNat := by rw [← hcount, hcnt, Nat.add_zero]
  have hne : n ≠ 0 := by
    rintro rfl
    simp at hlen
  rw [calibrateLoop_end (BitVec.eq_of_toNat_eq hcnt) hne, Engine.storeMean, hsum, ← hlen,
    fitted_eq_ofInt_of_rawRange (mean_rawRange (by simp) hfull)]

end

/-- CALIBRATE from the head of a read to its end: the reads `rs` and one more, after those in `done`. -/
theorem run_calibrate {k : Nat} (last : Reading) (rest : List Level) : ∀ (rs done : List Reading)
    (e : Engine p), CalibrateTurn ch n k done e → done.length + (rs.length + 1) = n.toNat →
    (∀ r ∈ rs ++ [last], r.Full p) → e.script = scripts (rs ++ [last]) ++ rest →
    let q := BitVec.ofInt p.accW (truncdiv (rawSum p (done ++ (rs ++ [last]))) n.toNat)
    ∃ (x : Nat) (v : p.Container) (w : BitVec 5) (m : p.Sum) (c : p.Count) (d : Nat),
      run (eventsOf p k (rs ++ [last])) ⟨p, e⟩ = .next ⟨p, { e with
        script := rest
        trace := e.trace ++ traces e.pinData e.pinClock k (rs ++ [last])
        offsetA := if ch = .a then q else e.offsetA
        offsetB := if ch = .b then q else e.offsetB
        result := sext (samplePattern p last.bits)
        clkOut := .low
        pcnt := x
        acc := v
        bit := w
        sum := m
        cnt := c
        draws := d
        seq := .idle }⟩ := by
  intro rs
  induction rs with
  | nil =>
    intro done e h hlen hfull hscript q
    rw [List.nil_append] at hfull hscript ⊢
    have hcount := h.count
    have hlast : last.Full p := hfull last List.mem_cons_self
    obtain ⟨y, call, hrun⟩ := h.run_reading hlast (scripts_singleton last ▸ hscript)
    obtain ⟨x, v, w, m, c, d, hend⟩ := release_calibrate _
    rw [h.last hlast (by rw [List.length_nil] at hlen; omega), setOffset_eq, hend] at hrun
    rw [eventsOf_singleton, traces_singleton]
    exact ⟨x, v, w, m, c, d, hrun⟩
  | cons r rs ih =>
    intro done e h hlen hfull hscript q
    rw [List.length_cons] at hlen
    rw [List.cons_append, scripts_cons, List.append_assoc] at hscript
    have hcount := h.count
    obtain ⟨hr, hrs⟩ := List.forall_mem_cons.1 hfull
    obtain ⟨y, call, hrun⟩ := h.run_reading hr hscript
    obtain ⟨hmore, hturn⟩ := h.next hr (by omega)
    rw [hmore] at hrun
    obtain ⟨x, v, w, m, c, d, hrest⟩ := ih _ _ hturn (by simp; omega) hrs rfl
    rw [← List.append_cons] at hrest
    rw [List.cons_append, eventsOf_cons, traces_cons, ← List.append_assoc, run_add _ _ _ hrun]
    exact ⟨x, v, w, m, c, d, hrest⟩

/-! ## The statements -/

/-- Settles O33: the issue begins the loop, which `run_calibrate` follows to its end. -/
theorem calibrateCompletes : Obligations.CalibrateCompletes := by
  unfold Obligations.CalibrateCompletes
  intro p e ch n rs last rest hs hl hlen hfull hscript k q
  have hne : n ≠ 0 := by
    rintro rfl
    simp at hlen
  refine ⟨_, (exec_calibrate hs hl ch n).trans (congrArg lift (calibrateLoop_more hne)), ?_⟩
  rw [hs]
  exact run_calibrate last rest rs [] _ (calibrateTurn_begin e) (by simpa using hlen) hfull hscript

/-- After a CALIBRATE whose samples are all `V`, the engine is idle again with `V` as its channel's offset. -/
theorem calibrate_of_constant {V : Int} {rs : List Reading} {last : Reading} {rest : List Level}
    (hs : e.seq = .idle) (hl : e.life = .live) (hlen : rs.length + 1 = n.toNat)
    (hall : ∀ x ∈ rs ++ [last], x.Full p ∧ x.raw p = V) (hscript : e.script = scripts (rs ++ [last]) ++ rest) :
    ∃ t u, exec (.calibrate ch n.toNat) ⟨p, e⟩ = .next ⟨p, t⟩ ∧
      run (eventsOf p (pulses p (e.gainOf ch)) (rs ++ [last])) ⟨p, t⟩ = .next ⟨p, u⟩ ∧
      (u.offsetOf ch).toInt = V ∧ u.seq = .idle ∧ u.life = .live ∧ u.script = rest ∧
      u.gainOf ch = e.gainOf ch := by
  have hne : rs ++ [last] ≠ [] := by simp
  have hfull : ∀ x ∈ rs ++ [last], x.Full p := fun x hx => (hall x hx).1
  have hcount : (rs ++ [last]).length = n.toNat := List.length_append.trans hlen
  have hmean : truncdiv (rawSum p (rs ++ [last])) n.toNat = V :=
    hcount ▸ mean_of_constant hne fun x hx => (hall x hx).2
  have hV : (BitVec.ofInt p.accW V).toInt = V :=
    ofInt_toInt_of_rawRange (hmean ▸ hcount ▸ mean_rawRange hne hfull)
  obtain ⟨t, hexec, x, v, w, m, c, d, hrun⟩ := calibrateCompletes p e ch n rs last rest hs hl hlen hfull hscript
  rw [hmean] at hrun
  refine ⟨t, _, hexec, hrun, ?_, hs, hl, rfl, gainOf_congr rfl rfl⟩
  cases ch with
  | a => exact hV
  | b => exact hV

/-- A READCAL whose sample is its channel's offset gives 0 (R154). -/
theorem readCal_of_offset {r : Reading} {rest : List Level} (hs : e.seq = .idle) (hl : e.life = .live)
    (hr : r.Full p) (hscript : e.script = r.script ++ rest) (hoff : (e.offsetOf ch).toInt = r.raw p) :
    ∃ t u, exec (.readCal ch) ⟨p, e⟩ = .next ⟨p, t⟩ ∧
      run (r.events p (pulses p (e.gainOf ch))) ⟨p, t⟩ = .next ⟨p, u⟩ ∧ u.seq = .idle ∧ u.result = 0 := by
  have hzero : fixedPoint p ch e.gainA (r.raw p) (e.offsetOf ch).toInt = 0 :=
    (fixedPoint_eq_zero_iff ch e.gainA).2 hoff.symm
  have hfits : (fixedPoint p ch e.gainA (r.raw p) (e.offsetOf ch).toInt).natAbs < 2 ^ (p.accW - 1) := by
    rw [hzero]
    exact Nat.two_pow_pos _
  obtain ⟨-, -, hread⟩ := readCalCompletes
  obtain ⟨t, hexec, x, v, w, d, hrun⟩ := hread p e ch r rest hs hl hr hscript hfits
  exact ⟨t, _, hexec, hrun, hs, (ofInt_eq_zero_iff_of_fits hfits).2 hzero⟩

/-- Settles O34: the bounds of the sum, and the mean between the bounds of a sample. -/
theorem storedOffsetFits : Obligations.StoredOffsetFits := by
  unfold Obligations.StoredOffsetFits
  refine ⟨rfl, fun _ => Iff.rfl, fun p rs hne hrs => ?_⟩
  have hmean := mean_rawRange hne hrs
  exact ⟨(rawSum_bounds hrs).1, (rawSum_bounds hrs).2, hmean, ofInt_toInt_of_rawRange hmean⟩

/-- Settles O35: the remainder has the sign of the dividend, and the sum of equal samples is a multiple. -/
theorem meanTruncatesTowardZero : Obligations.MeanTruncatesTowardZero := by
  unfold Obligations.MeanTruncatesTowardZero
  refine ⟨rfl, rfl, rfl, fun a n hn => ⟨a.tmod n, ?_, ?_, ?_, ?_⟩, fun p rs V => mean_of_constant⟩
  · exact (Int.tdiv_mul_add_tmod a n).symm
  · rw [Int.natAbs_tmod]
    exact Nat.mod_lt _ (Int.natAbs_pos.2 hn.ne')
  · exact fun ha => Int.tmod_nonneg n ha
  · intro ha
    have hneg : 0 ≤ (-a).tmod n := Int.tmod_nonneg n (by omega)
    rw [Int.neg_tmod] at hneg
    omega

/-- Settles O36: the offset is the mean of equal samples, so that the next sample's difference from it is 0. -/
theorem readAfterConstantCalibrationIsZero : Obligations.ReadAfterConstantCalibrationIsZero := by
  unfold Obligations.ReadAfterConstantCalibrationIsZero
  intro p e ch n rs last r V rest hs hl hlen hall hscript k
  rw [List.append_cons] at hall
  obtain ⟨hcal, hread⟩ := List.forall_mem_append.1 hall
  obtain ⟨hr, hraw⟩ := hread r List.mem_cons_self
  obtain ⟨t, u, hexec, hrun, hoff, hsu, hlu, hscriptu, hgain⟩ := calibrate_of_constant hs hl hlen hcal hscript
  obtain ⟨t', u', hexec', hrun', hidle, hzero⟩ :=
    readCal_of_offset hsu hlu hr hscriptu (hoff.trans hraw.symm)
  rw [hgain] at hrun'
  exact ⟨t, u, t', u', hexec, hrun, hoff, hexec', hrun', hidle, hzero⟩

/-- Settles O37: with no read to make, the test of the count is reached at once. -/
theorem countZeroFaults : Obligations.CountZeroFaults := by
  unfold Obligations.CountZeroFaults
  intro p e ch hs hl
  have hcal : whenLive e (calibrateLoop ch 0 { e with sum := 0, cnt := 0 }) = .fault .divideByZero :=
    (whenLive_of_live hs hl _).trans (calibrateLoop_fault rfl)
  have havg : whenLive e (avgReadLoop ch 0 { e with fsum := 0, cnt := 0 }) = .fault .divideByZero :=
    (whenLive_of_live hs hl _).trans (avgReadLoop_fault rfl)
  exact ⟨congrArg lift hcal, congrArg lift havg⟩

end Sys2Proof.Machine
end

section
/-! # Averaging (spec 44)

Whatever the mode, the rounded quotient is the floor, or the number above it where the division leaves a
remainder; R171's bounds need no more of a mode. AVGREAD's loop is an induction over its readings: each turn
is a `run_to_afterReading` whose calibrated result is added to `FSUM`, and the last one stores the rounded
mean. -/

namespace Sys2Proof.Machine

variable {p : Params} {e : Engine p} {ch : Channel} {n : p.Count}

/-! ## The rounded quotient (R171) -/

section

variable {mode : Rounding} {a n : Int}

/-- Every mode answers the floor, or the number above it, and that only where `n` does not divide. -/
theorem roundDiv_cases (mode : Rounding) (a : Int) (hn : 0 < n) :
    roundDiv mode a n = a / n ∨ (¬ n ∣ a ∧ roundDiv mode a n = a / n + 1) := by
  by_cases hdvd : n ∣ a
  · left
    cases mode with
    | towardZero => exact Int.tdiv_eq_ediv_of_dvd hdvd
    | towardNegative => rfl
    | towardPositive => rw [roundDiv, Int.neg_ediv_of_dvd hdvd, neg_neg]
    | nearestEven =>
      have htwice : 2 * (a % n) < n := by rwa [Int.emod_eq_zero_of_dvd hdvd]
      exact if_pos htwice
  · have hsign : n.sign = 1 := Int.sign_eq_one_of_pos hn
    cases mode with
    | towardZero =>
      rw [roundDiv, truncdiv, Int.tdiv_eq_ediv, hsign]
      split
      · exact .inl (add_zero _)
      · exact .inr ⟨hdvd, rfl⟩
    | towardNegative => exact .inl rfl
    | towardPositive => exact .inr ⟨hdvd, by rw [roundDiv, Int.neg_ediv, if_neg hdvd, hsign]; ring⟩
    | nearestEven =>
      simp only [roundDiv, hdvd, not_false_eq_true, true_and]
      split_ifs <;> simp

theorem roundDiv_mul_of_dvd (mode : Rounding) (hn : 0 < n) (hdvd : n ∣ a) : roundDiv mode a n * n = a := by
  rcases roundDiv_cases mode a hn with h | ⟨hndvd, -⟩
  · rw [h, Int.ediv_mul_cancel hdvd]
  · exact absurd hdvd hndvd

/-- The error is the remainder, or what it lacks to `n` (R171). -/
theorem abs_sub_roundDiv_mul_lt (mode : Rounding) (a : Int) (hn : 0 < n) :
    |a - roundDiv mode a n * n| < n := by
  have hlo := Int.emod_nonneg a hn.ne'
  have hhi := Int.emod_lt_of_pos a hn
  have hrem : a - a / n * n = a % n := by rw [Int.emod_def, mul_comm]
  rcases roundDiv_cases mode a hn with h | ⟨hndvd, h⟩
  · rw [h, hrem, abs_lt]
    omega
  · have hne : a % n ≠ 0 := fun h0 => hndvd (Int.dvd_of_emod_eq_zero h0)
    rw [h, add_mul, one_mul, ← sub_sub, hrem, abs_lt]
    omega

/-- The mean is no larger in size than a bound of the terms (R170). -/
theorem abs_roundDiv_le {B : Int} (mode : Rounding) (hn : 0 < n) (h : |a| ≤ n * B) :
    |roundDiv mode a n| ≤ B := by
  obtain ⟨hlo, hhi⟩ := abs_le.1 h
  have hfloor : -B ≤ a / n := (Int.le_ediv_iff_mul_le hn).2 (by rw [neg_mul, mul_comm]; exact hlo)
  have htop : a / n ≤ B := Int.ediv_le_of_le_mul hn (by rwa [mul_comm])
  rcases roundDiv_cases mode a hn with hq | ⟨hndvd, hq⟩
  · exact hq ▸ abs_le.2 ⟨hfloor, htop⟩
  · have hne : a ≠ n * B := fun h0 => hndvd (Dvd.intro B h0.symm)
    have hlt : a / n < B := Int.ediv_lt_of_lt_mul hn (by rw [mul_comm]; omega)
    exact hq ▸ abs_le.2 ⟨by omega, by omega⟩

end

/-! ## The sum and the mean of calibrated results (R32, R170) -/

/-- The reading has a full frame, and its calibrated result fits `RESULT` (R156). -/
structure Reading.Calibrates (p : Params) (ch : Channel) (g : GainSetting) (off : Int) (r : Reading) :
    Prop where
  full : r.Full p
  fits : (fixedPoint p ch g (r.raw p) off).natAbs < 2 ^ (p.accW - 1)

section

variable {g : GainSetting} {off : Int} {rs : List Reading}

theorem fixedSum_concat (rs : List Reading) (r : Reading) :
    fixedSum p ch g off (rs ++ [r]) = fixedSum p ch g off rs + fixedPoint p ch g (r.raw p) off := by
  simp [fixedSum]

theorem abs_fixedSum_le {B : Int} (h : ∀ r ∈ rs, |fixedPoint p ch g (r.raw p) off| ≤ B) :
    |fixedSum p ch g off rs| ≤ rs.length * B := by
  have hterm : ∀ v ∈ rs.map (fun r => fixedPoint p ch g (r.raw p) off), |v| ≤ B :=
    List.forall_mem_map.2 h
  have hlo := List.card_nsmul_le_sum _ (-B) fun v hv => (abs_le.1 (hterm v hv)).1
  have hhi := List.sum_le_card_nsmul _ B fun v hv => (abs_le.1 (hterm v hv)).2
  rw [List.length_map, nsmul_eq_mul] at hlo hhi
  rw [mul_neg] at hlo
  exact abs_le.2 ⟨hlo, hhi⟩

theorem abs_fixedSum_le_of_calibrates (h : ∀ r ∈ rs, r.Calibrates p ch g off) :
    |fixedSum p ch g off rs| ≤ rs.length * (2 ^ (p.accW - 1) - 1) := by
  refine abs_fixedSum_le fun r hr => ?_
  rw [Int.abs_eq_natAbs]
  have hfits := (h r hr).fits
  exact Int.le_sub_one_of_lt (by exact_mod_cast hfits)

/-- What keeps `FSUM` from overflowing: its width has room for `n` results of any size, or the offset is in the
range of raw samples, which bounds each result (R32, log 23). -/
def FsumRoom (n : p.Count) (off : Int) : Prop := n.toNat * 2 ^ (p.accW - 1) ≤ 2 ^ 63 ∨ RawRange p off

/-- No sum on the way to that of `n` results overflows `FSUM` (R32). -/
theorem fixedSum_fits (hroom : FsumRoom n off)
    (h : ∀ r ∈ rs, r.Calibrates p ch g off) (hpos : 0 < rs.length) (hlen : rs.length ≤ n.toNat) :
    -2 ^ (64 - 1) ≤ fixedSum p ch g off rs ∧ fixedSum p ch g off rs < 2 ^ (64 - 1) := by
  rcases hroom with hroom | hoff
  · have hmul : (rs.length : Int) * 2 ^ (p.accW - 1) ≤ 2 ^ 63 := by
      exact_mod_cast (Nat.mul_le_mul_right _ hlen).trans hroom
    obtain ⟨hlo, hhi⟩ := abs_le.1 (abs_fixedSum_le_of_calibrates h)
    rw [mul_sub, mul_one] at hlo hhi
    omega
  · exact calSum_fits (hlen.trans n.isLt.le)
      (abs_fixedSum_le fun r hr => abs_fixedPoint_le (r.raw_rawRange (h r hr).full) hoff ch g)

/-- The mean of results that fit `RESULT` is stored there as it is (R170). -/
theorem fitted_mean (mode : Rounding) (h : ∀ r ∈ rs, r.Calibrates p ch g off) (hpos : 0 < rs.length) :
    fitted p.accW (roundDiv mode (fixedSum p ch g off rs) rs.length) =
      BitVec.ofInt p.accW (roundDiv mode (fixedSum p ch g off rs) rs.length) := by
  have hmean := abs_roundDiv_le mode (Int.natCast_pos.2 hpos) (abs_fixedSum_le_of_calibrates h)
  obtain ⟨hlo, hhi⟩ := abs_le.1 hmean
  exact fitted_of ⟨by omega, by omega⟩

end

/-! ## Issuing the command -/

theorem exec_avgRead (hs : e.seq = .idle) (hl : e.life = .live) (ch : Channel) (n : p.Count) :
    exec (.avgRead ch n.toNat) ⟨p, e⟩ = lift (avgReadLoop ch n { e with fsum := 0, cnt := n }) := by
  have hcount : BitVec.ofNat p.cntW n.toNat = n := by simp
  calc exec (.avgRead ch n.toNat) ⟨p, e⟩
      = lift (e.beginAvgRead ch (BitVec.ofNat p.cntW n.toNat)) := rfl
    _ = lift (e.beginAvgRead ch n) := by rw [hcount]
    _ = _ := congrArg lift (whenLive_of_live hs hl _)

/-- The end of AVGREAD leaves the registers it used at free values and every other one as it was (log 8). -/
theorem release_avgRead (e : Engine p) :
    ∃ (x : Nat) (v : p.Container) (w : BitVec 5) (m : BitVec 64) (c : p.Count) (d : Nat),
      e.releasePulses.releaseShift.releaseFsum.finish = { e with
        pcnt := x
        acc := v
        bit := w
        fsum := m
        cnt := c
        draws := d
        seq := .idle } := ⟨_, _, _, _, _, _, rfl⟩

/-! ## The loop (R170) -/

/-- The state that a READCAL with the result `v` leaves to the loop's test: the result stored, then added. -/
def Engine.afterTerm (o : Owner p) (k : Nat) (r : Reading) (rest : List Level) (x : BitVec 5)
    (call : ShiftInCall) (v : Int) (e : Engine p) : Engine p :=
  Engine.addCal { e.afterReading o k r rest x call with result := BitVec.ofInt p.accW v }

/-- The head of a read of AVGREAD that has made the reads `done` with `k` pulses each: `FSUM` is the exact sum
of their results, and `CNT` says how many of `n` are left. -/
structure AvgReadTurn (ch : Channel) (n : p.Count) (k : Nat) (g : GainSetting) (off : Int)
    (done : List Reading) (e : Engine p) : Prop where
  seq : e.seq = .select .poll (.avgRead ch n)
  pcnt : e.pcnt = k
  gain : pulses p (e.gainOf ch) = k
  gainA : e.gainA = g
  offset : (e.offsetOf ch).toInt = off
  calibrates : ∀ r ∈ done, r.Calibrates p ch g off
  fsum : e.fsum.toInt = fixedSum p ch g off done
  count : done.length + e.cnt.toNat = n.toNat

theorem avgReadTurn_begin (e : Engine p) :
    AvgReadTurn ch n (pulses p (e.gainOf ch)) e.gainA (e.offsetOf ch).toInt []
      (Engine.beginSelect ch (.avgRead ch n) { e with fsum := 0, cnt := n }) where
  seq := rfl
  pcnt := rfl
  gain := congrArg (pulses p) (gainOf_congr rfl rfl)
  gainA := rfl
  offset := congrArg BitVec.toInt (offsetOf_congr rfl rfl)
  calibrates := List.forall_mem_nil _
  fsum := BitVec.toInt_zero
  count := Nat.zero_add _

section

variable {k : Nat} {g : GainSetting} {off : Int} {done : List Reading} {r : Reading} {rest : List Level}

/-- A read of AVGREAD comes to the loop's test with its result added. -/
theorem AvgReadTurn.run_reading (h : AvgReadTurn ch n k g off done e) (hr : r.Calibrates p ch g off)
    (hs : e.script = r.script ++ rest) :
    ∃ x call, run (r.events p k) ⟨p, e⟩ = lift (avgReadLoop ch n
      (e.afterTerm (.avgRead ch n) k r rest x call (fixedPoint p ch g (r.raw p) off))) := by
  rw [← h.pcnt]
  obtain ⟨x, call, hrun⟩ := run_to_afterReading _ (by simp) hr.full h.seq hs
  let t := e.afterReading (.avgRead ch n) e.pcnt r rest x call
  have hraw : t.result.toInt = r.raw p := rfl
  have hoff : (t.offsetOf ch).toInt = off := h.offset ▸ congrArg BitVec.toInt (offsetOf_congr rfl rfl)
  have hcal : calibratedThen ch (fun u => avgReadLoop ch n u.addCal) t = avgReadLoop ch n
      (e.afterTerm (.avgRead ch n) e.pcnt r rest x call (fixedPoint p ch g (r.raw p) off)) :=
    calibratedThen_of h.gainA hraw hoff hr.fits
  exact ⟨x, call, hrun.trans (congrArg lift hcal)⟩

variable {y : BitVec 5} {call : ShiftInCall} {o : Owner p}

/-- Another result is added to `FSUM` exactly (R32), and leaves one read less to make. -/
theorem AvgReadTurn.add (h : AvgReadTurn ch n k g off done e) (hroom : FsumRoom n off)
    (hr : r.Calibrates p ch g off) (hleft : 1 ≤ e.cnt.toNat) :
    let t := e.afterTerm o k r rest y call (fixedPoint p ch g (r.raw p) off)
    (∀ x ∈ done ++ [r], x.Calibrates p ch g off) ∧ t.fsum.toInt = fixedSum p ch g off (done ++ [r]) ∧
      (done ++ [r]).length + t.cnt.toNat = n.toNat := by
  intro t
  have hcount := h.count
  have hall : ∀ x ∈ done ++ [r], x.Calibrates p ch g off :=
    List.forall_mem_append.2 ⟨h.calibrates, by simpa using hr⟩
  have hlen : (done ++ [r]).length = done.length + 1 := List.length_append
  have hcnt : t.cnt.toNat = e.cnt.toNat - 1 := toNat_sub_one hleft
  refine ⟨hall, ?_, by rw [hcnt]; omega⟩
  calc t.fsum.toInt
      = (fitted 64 (e.fsum.toInt +
          (BitVec.ofInt p.accW (fixedPoint p ch g (r.raw p) off)).toInt)).toInt := rfl
    _ = (fitted 64 (fixedSum p ch g off (done ++ [r]))).toInt := by
        rw [toInt_ofInt_of_fits hr.fits, h.fsum, fixedSum_concat]
    _ = _ := fitted_toInt (by decide) (fixedSum_fits hroom hall (by omega) (by omega))

/-- After a read that is not the last, the next one begins. -/
theorem AvgReadTurn.next (h : AvgReadTurn ch n k g off done e) (hroom : FsumRoom n off)
    (hr : r.Calibrates p ch g off) (hmore : 2 ≤ e.cnt.toNat) :
    let t := e.afterTerm o k r rest y call (fixedPoint p ch g (r.raw p) off)
    avgReadLoop ch n t = .next (t.beginSelect ch (.avgRead ch n)) ∧
      AvgReadTurn ch n k g off (done ++ [r]) (t.beginSelect ch (.avgRead ch n)) := by
  obtain ⟨hall, hfsum, hcount⟩ :=
    h.add (o := o) (rest := rest) (y := y) (call := call) hroom hr (by omega)
  intro t
  have hcnt : t.cnt.toNat = e.cnt.toNat - 1 := toNat_sub_one (x := e.cnt) (by omega)
  have hne : t.cnt ≠ 0 := by
    intro h0
    simp only [h0, BitVec.ofNat_eq_ofNat, BitVec.toNat_zero] at hcnt
    omega
  have hgain : pulses p (t.gainOf ch) = k := h.gain ▸ congrArg (pulses p) (gainOf_congr rfl rfl)
  have hoff : (t.offsetOf ch).toInt = off :=
    h.offset ▸ congrArg BitVec.toInt (offsetOf_congr rfl rfl)
  exact ⟨avgReadLoop_more hne, rfl, hgain, hgain, h.gainA, hoff, hall, hfsum, hcount⟩

/-- After the last read, the rounded mean of all results is stored and the registers used are released. -/
theorem AvgReadTurn.last (h : AvgReadTurn ch n k g off done e) (hroom : FsumRoom n off)
    (hr : r.Calibrates p ch g off) (hone : e.cnt.toNat = 1) :
    let t := e.afterTerm o k r rest y call (fixedPoint p ch g (r.raw p) off)
    let mean := roundDiv p.avgRound (fixedSum p ch g off (done ++ [r])) n.toNat
    avgReadLoop ch n t = .next (Engine.releasePulses { t with
      result := BitVec.ofInt p.accW mean }).releaseShift.releaseFsum.finish := by
  obtain ⟨hall, hfsum, hcount⟩ := h.add (o := o) (rest := rest) (y := y) (call := call) hroom hr (by omega)
  intro t mean
  have hcnt : t.cnt.toNat = 0 := (toNat_sub_one hone.ge).trans (by rw [hone])
  have hlen : (done ++ [r]).length = n.toNat := by rw [← hcount, hcnt, Nat.add_zero]
  have hne : n ≠ 0 := by
    rintro rfl
    simp at hlen
  rw [avgReadLoop_end (BitVec.eq_of_toNat_eq hcnt) hne, Engine.storeAverage, hfsum, ← hlen,
    fitted_mean p.avgRound hall (by simp), hlen]

end

/-- AVGREAD from the head of a read to its end: the reads `r` and `rs`, after those in `done`. -/
theorem run_avgRead {k : Nat} {g : GainSetting} {off : Int} (hroom : FsumRoom n off) (rest : List Level) :
    ∀ (rs : List Reading) (r : Reading) (done : List Reading) (e : Engine p),
    AvgReadTurn ch n k g off done e → (done ++ r :: rs).length = n.toNat →
    (∀ x ∈ r :: rs, x.Calibrates p ch g off) → e.script = scripts (r :: rs) ++ rest →
    ∃ (x : Nat) (v : p.Container) (w : BitVec 5) (m : BitVec 64) (c : p.Count) (d : Nat),
      run (eventsOf p k (r :: rs)) ⟨p, e⟩ = .next ⟨p, { e with
        script := rest
        trace := e.trace ++ traces e.pinData e.pinClock k (r :: rs)
        result := BitVec.ofInt p.accW
          (roundDiv p.avgRound (fixedSum p ch g off (done ++ r :: rs)) n.toNat)
        clkOut := .low
        pcnt := x
        acc := v
        bit := w
        fsum := m
        cnt := c
        draws := d
        seq := .idle }⟩ := by
  intro rs
  induction rs with
  | nil =>
    intro r done e h hlen hall hscript
    have hcount := h.count
    have hr : r.Calibrates p ch g off := hall r List.mem_cons_self
    obtain ⟨y, call, hrun⟩ := h.run_reading hr (scripts_singleton r ▸ hscript)
    obtain ⟨x, v, w, m, c, d, hend⟩ := release_avgRead _
    rw [h.last hroom hr (by rw [List.length_append, List.length_singleton] at hlen; omega), hend] at hrun
    rw [eventsOf_singleton, traces_singleton]
    exact ⟨x, v, w, m, c, d, hrun⟩
  | cons r' rs ih =>
    intro r done e h hlen hall hscript
    rw [scripts_cons, List.append_assoc] at hscript
    have hcount := h.count
    obtain ⟨hr, hrs⟩ := List.forall_mem_cons.1 hall
    obtain ⟨y, call, hrun⟩ := h.run_reading hr hscript
    obtain ⟨hmore, hturn⟩ := h.next hroom hr (by simp at hlen; omega)
    rw [hmore] at hrun
    rw [List.append_cons] at hlen ⊢
    obtain ⟨x, v, w, m, c, d, hrest⟩ := ih r' _ _ hturn hlen hrs rfl
    rw [eventsOf_cons, traces_cons, ← List.append_assoc, run_add _ _ _ hrun]
    exact ⟨x, v, w, m, c, d, hrest⟩

/-! ## The statements -/

/-- Settles O38: the issue begins the loop, which `run_avgRead` follows to its end. -/
theorem avgReadCompletes : Obligations.AvgReadCompletes := by
  unfold Obligations.AvgReadCompletes
  intro p e ch n rs rest hs hl hn hlen hfull hfits hroom hscript k
  refine ⟨_, (exec_avgRead hs hl ch n).trans (congrArg lift (avgReadLoop_more hn)), ?_⟩
  cases rs with
  | nil => exact absurd (BitVec.eq_of_toNat_eq (hlen.symm.trans BitVec.toNat_zero.symm)) hn
  | cons r rs =>
    have hall : ∀ x ∈ r :: rs, x.Calibrates p ch e.gainA (e.offsetOf ch).toInt :=
      fun x hx => ⟨hfull x hx, hfits x hx⟩
    rw [hs]
    exact run_avgRead hroom rest rs r [] _ (avgReadTurn_begin e) hlen hall hscript

/-- Settles O39: the quotient is the floor or the number above it, and the floor where `n` divides. -/
theorem averageRounding : Obligations.AverageRounding := by
  unfold Obligations.AverageRounding
  refine ⟨fun mode a n hn => ⟨?_, roundDiv_mul_of_dvd mode hn, rfl, fun B hB => ?_⟩, rfl⟩
  · zify
    exact (abs_sub_roundDiv_mul_lt mode a hn).trans_eq (abs_of_pos hn).symm
  · zify [abs_mul, abs_of_pos hn] at hB ⊢
    exact abs_roundDiv_le mode hn hB

end Sys2Proof.Machine
end

section
/-! # Lifecycle: CONSTRUCT and TEARDOWN (spec 45)

Each command as its issue, which touches no pin, and then its run, one platform call a step. Where
CONSTRUCT ends is said once, by `Engine.constructed`: it does not read what it overwrites, so the past of
the engine is not in it (R182). -/

namespace Sys2Proof.Machine

variable {p : Params} {e t : Engine p} {i : Instr}

/-! ## What the issue of a command writes (log 2) -/

/-- Whatever the command, the registers outside this list are as they were. -/
theorem Issued.frame (h : Issued e i t) :
    t = { e with
      seq := t.seq, pinData := t.pinData, pinClock := t.pinClock, gainA := t.gainA,
      gainB := t.gainB, pcnt := t.pcnt, sum := t.sum, fsum := t.fsum, cnt := t.cnt } := by
  cases h with
  | setGain ch g =>
    obtain ⟨_, _, heq⟩ := offerGain_frame ch g e
    rw [heq]
  | _ => rfl

/-- Every command but CONSTRUCT is for a LIVE engine (R196). -/
theorem Issued.live (h : Issued e i t) (hi : ∀ d c, i ≠ .construct d c) : e.life = .live := by
  cases h with
  | construct d c => exact absurd rfl (hi d c)
  | _ => assumption

/-- Of the commands only SETGAIN writes a gain when it is issued (R140). -/
theorem Issued.gains (h : Issued e i t) :
    (t.gainA = e.gainA ∧ t.gainB = e.gainB) ∨ ∃ ch g, i = .setGain ch g := by
  cases h with
  | setGain ch g => exact .inr ⟨ch, g, rfl⟩
  | _ => exact .inl ⟨rfl, rfl⟩

/-! ## CONSTRUCT -/

/-- An idle engine that is not LIVE takes two pin numbers, which CONSTRUCT stores before its first call
(R180). -/
theorem exec_construct (hs : e.seq = .idle) (hl : e.life ≠ .live) {d c : p.PinId} (hpins : d ≠ c) :
    exec (.construct d.toNat c.toNat) ⟨p, e⟩ =
      .next ⟨p, { e with pinData := d, pinClock := c, seq := .construct .dirData }⟩ := by
  simp [exec, execConstruct, Engine.beginConstruct, hs, hl, hpins]

theorem exec_construct_samePin (hs : e.seq = .idle) (hl : e.life ≠ .live) (n : Nat) :
    exec (.construct n n) ⟨p, e⟩ = .refused .samePin := by
  simp [exec, execConstruct, Engine.beginConstruct, hs, hl]

theorem exec_construct_of_live (hs : e.seq = .idle) (hl : e.life = .live) (d c : Nat) :
    exec (.construct d c) ⟨p, e⟩ = .refused .wrongLifecycle := by
  simp [exec, execConstruct, Engine.beginConstruct, hs, hl]

theorem step_construct {call : ConstructCall} (hs : e.seq = .construct call) :
    step ⟨p, e⟩ = .next ⟨p, constructStep call e⟩ := by
  rw [step_of_busy (by simp [hs]), engineStep_construct hs, lift_next]

/-- The engine after CONSTRUCT with the pins `d` and `c` (R180). -/
def Engine.constructed (d c : p.PinId) (e : Engine p) : Engine p :=
  { e with
    life := .live
    pinData := d
    pinClock := c
    gainA := p.gainAReset
    gainB := .g32
    offsetA := 0
    offsetB := 0
    clkOut := .low
    dirData := .input
    dirClock := .output
    trace := e.trace ++ [.dir d .input, .dir c .output, .write c .high, .delay p.resetDelayUs,
      .write c .low] }

/-- The updates of CONSTRUCT's five calls, one after another, come to `constructed`. -/
theorem constructStep_all (hs : e.seq = .idle) (d c : p.PinId) :
    constructStep .fall (constructStep .delay (constructStep .rise (constructStep .dirClock
      (constructStep .dirData
        { e with pinData := d, pinClock := c, seq := .construct .dirData })))) =
      e.constructed d c := by
  cases e
  cases hs
  simp [constructStep, Engine.constructed, Engine.pinDir, Engine.pinWrite, Engine.delayUs, Engine.emit,
    Engine.becomeLive, Engine.finish]

/-- CONSTRUCT's run, from its first call to its end (R180). -/
theorem run_construct (hs : e.seq = .idle) (d c : p.PinId) :
    run 5 ⟨p, { e with pinData := d, pinClock := c, seq := .construct .dirData }⟩ =
      .next ⟨p, e.constructed d c⟩ := by
  rw [← constructStep_all hs d c, run_succ 4 (step_construct rfl), run_succ 3 (step_construct rfl),
    run_succ 2 (step_construct rfl), run_succ 1 (step_construct rfl), run_one]
  exact step_construct rfl

/-- The command from its issue to its end (R180). -/
theorem construct_completes (hs : e.seq = .idle) (hl : e.life ≠ .live) {d c : p.PinId}
    (hpins : d ≠ c) :
    ∃ t, exec (.construct d.toNat c.toNat) ⟨p, e⟩ = .next ⟨p, t⟩ ∧
      run 5 ⟨p, t⟩ = .next ⟨p, e.constructed d c⟩ :=
  ⟨_, exec_construct hs hl hpins, run_construct hs d c⟩

/-! ## TEARDOWN -/

theorem exec_teardown (hs : e.seq = .idle) (hl : e.life = .live) :
    exec .teardown ⟨p, e⟩ = .next ⟨p, { e with seq := .teardown .dirData }⟩ :=
  congrArg lift (whenLive_of_live hs hl _)

theorem step_teardown {call : TeardownCall} (hs : e.seq = .teardown call) :
    step ⟨p, e⟩ = .next ⟨p, teardownStep call e⟩ := by
  rw [step_of_busy (by simp [hs]), engineStep_teardown hs, lift_next]

/-- The engine after TEARDOWN, with the values `v` in the registers the spec leaves unspecified and `d`
free values drawn (R183, log 7). -/
def Engine.tornDown (v : Unspecified p) (d : Nat) (e : Engine p) : Engine p :=
  { e with
    life := .dead
    pinData := v.pinData
    pinClock := v.pinClock
    gainA := v.gainA
    gainB := v.gainB
    offsetA := v.offsetA
    offsetB := v.offsetB
    dirData := .input
    dirClock := .input
    trace := e.trace ++ [.dir e.pinData .input, .dir e.pinClock .input]
    draws := d }

/-- The updates of TEARDOWN's two calls: the events name the pins that the second call then destroys. -/
theorem teardownStep_all (hs : e.seq = .idle) :
    teardownStep .dirClock (teardownStep .dirData { e with seq := .teardown .dirData }) =
      e.tornDown (Config.unspecified p e.draws) (e.draws + 1) := by
  cases e
  cases hs
  simp [teardownStep, Engine.tornDown, Engine.pinDir, Engine.emit, Engine.destroyConfig, Engine.finish]

/-- TEARDOWN's run, from its first call to its end (R183). -/
theorem run_teardown (hs : e.seq = .idle) :
    run 2 ⟨p, { e with seq := .teardown .dirData }⟩ =
      .next ⟨p, e.tornDown (Config.unspecified p e.draws) (e.draws + 1)⟩ := by
  rw [← teardownStep_all hs, run_succ 1 (step_teardown rfl), run_one]
  exact step_teardown rfl

/-! ## The statements -/

/-- Settles O12: the frame of the issue, and the one command that writes each of the other registers. A
command other than CONSTRUCT finds the engine LIVE, and then it keeps the pins. -/
theorem issuingTouchesNoPin : Obligations.IssuingTouchesNoPin := by
  unfold Obligations.IssuingTouchesNoPin
  intro p i e t h
  have hissued := exec_next_issued h
  refine ⟨hissued.frame, fun hi => hissued.pins (hissued.live hi),
    fun hi => hissued.gains.resolve_right ?_, fun hi => hissued.sum.resolve_right ?_,
    fun hi => hissued.fsum.resolve_right ?_⟩
  · rintro ⟨ch, g, rfl⟩
    exact hi ch g rfl
  · rintro ⟨ch, n, rfl⟩
    exact hi ch n rfl
  · rintro ⟨ch, n, rfl⟩
    exact hi ch n rfl

/-- Settles O14: the end state is `constructed`, written out. -/
theorem constructCompletes : Obligations.ConstructCompletes := by
  unfold Obligations.ConstructCompletes
  exact ⟨rfl, rfl, fun p e d c hs hl hpins => construct_completes hs hl hpins⟩

/-- Settles O15. -/
theorem constructWithEqualPinsIsRefused : Obligations.ConstructWithEqualPinsIsRefused := by
  unfold Obligations.ConstructWithEqualPinsIsRefused
  exact fun p e n hs hl => exec_construct_samePin hs hl n

/-- Settles O16: `constructed` overwrites LIFE and the six configuration registers, so the two runs end in
the same state. -/
theorem constructForgetsThePast : Obligations.ConstructForgetsThePast := by
  unfold Obligations.ConstructForgetsThePast
  refine ⟨fun p e d c hs hl => exec_construct_of_live hs hl d c,
    fun p e d c x y gA gB oA oB hs hpins => ?_⟩
  obtain ⟨t, ht, hrun⟩ := construct_completes (e := { e with life := .unbuilt }) hs nofun hpins
  obtain ⟨t', ht', hrun'⟩ := construct_completes (e := { e with
    life := .dead, pinData := x, pinClock := y, gainA := gA, gainB := gB, offsetA := oA,
    offsetB := oB }) hs nofun hpins
  exact ⟨_, _, _, ht, ht', hrun, hrun'⟩

/-- Settles O17: the free values are those of the one draw that `destroyConfig` makes. -/
theorem teardownCompletes : Obligations.TeardownCompletes := by
  unfold Obligations.TeardownCompletes
  exact fun p e hs hl => ⟨_, exec_teardown hs hl, _, _, run_teardown hs⟩

end Sys2Proof.Machine
end

section
/-! # The lifecycle check and the one fault (spec 60)

A command in the wrong lifecycle state is refused before anything else it stands for is looked at (R193,
R196). A step that faults divides by a count of 0 (R197): at the issue that is the operand, and within an
operation the invariant keeps the count above 0. -/

namespace Sys2Proof.Machine

variable {p : Params} {o : Owner p} {e : Engine p} {i : Instr} {f : Fault}

/-! ## The lifecycle check -/

/-- The meaning of every command but CONSTRUCT stands behind the check that the engine is LIVE (R196). -/
theorem exec_eq_lift_whenLive (hi : ∀ d c, i ≠ .construct d c) (e : Engine p) :
    ∃ k : Outcome p, exec i ⟨p, e⟩ = lift (whenLive e k) := by
  cases i with
  | construct d c => exact absurd rfl (hi d c)
  | _ => exact ⟨_, rfl⟩

/-! ## The loops fault for a count of 0 -/

theorem calibrateLoop_fault_count {ch : Channel} {n : p.Count} (h : calibrateLoop ch n e = .fault f) :
    n = 0 ∧ f = .divideByZero := by
  rcases calibrateLoop_cases h with ⟨_, h⟩ | ⟨_, hn, h⟩ | ⟨_, _, h⟩ <;> cases h
  exact ⟨hn, rfl⟩

theorem avgReadLoop_fault_count {ch : Channel} {n : p.Count} (h : avgReadLoop ch n e = .fault f) :
    n = 0 ∧ f = .divideByZero := by
  rcases avgReadLoop_cases h with ⟨_, h⟩ | ⟨_, hn, h⟩ | ⟨_, _, h⟩ <;> cases h
  exact ⟨hn, rfl⟩

/-! ## Issuing a command -/

/-- Only CALIBRATE and AVGREAD fault at their issue, where the register `CNT` takes their operand as 0
(R162, R172). -/
theorem exec_fault (h : exec i ⟨p, e⟩ = .fault f) :
    f = .divideByZero ∧
      ∃ ch n, BitVec.ofNat p.cntW n = 0 ∧ (i = .calibrate ch n ∨ i = .avgRead ch n) := by
  cases i with
  | construct d c =>
    obtain ⟨_, h⟩ := whenIdle_fault_iff.1 (lift_fault_iff.1 h)
    split_ifs at h
  | calibrate ch n =>
    obtain ⟨_, _, h⟩ := whenLive_fault_iff.1 (lift_fault_iff.1 h)
    obtain ⟨hn, hf⟩ := calibrateLoop_fault_count h
    exact ⟨hf, ch, n, hn, .inl rfl⟩
  | avgRead ch n =>
    obtain ⟨_, _, h⟩ := whenLive_fault_iff.1 (lift_fault_iff.1 h)
    obtain ⟨hn, hf⟩ := avgReadLoop_fault_count h
    exact ⟨hf, ch, n, hn, .inr rfl⟩
  | teardown | setGain | select | shiftIn | readRaw | readCal =>
    obtain ⟨_, _, h⟩ := whenLive_fault_iff.1 (lift_fault_iff.1 h)
    cases h

/-- A count operand that `CNT` takes as 0 is 0: its field is no wider than the register (R102). -/
theorem count_eq_zero {n : Nat} (hn : n < 2 ^ p.countField) (h : BitVec.ofNat p.cntW n = 0) : n = 0 := by
  have hmod : n % 2 ^ p.cntW = 0 := by simpa using congrArg BitVec.toNat h
  rwa [Nat.mod_eq_of_lt (count_lt hn)] at hmod

/-! ## The steps of an operation -/

theorem waitReady_goes_on {k : Engine p → Outcome p} (hk : ∃ t, k e.pinRead = .next t) :
    ∃ t, waitReady k e = .next t := by
  rcases waitReady_cases (f := k) (e := e) rfl with ⟨_, h⟩ | ⟨_, h⟩
  · exact ⟨_, h⟩
  · exact hk.imp fun _ => h.trans

theorem pulseLoop_goes_on : ∃ t, pulseLoop o (afterSelect o) e = .next t := by
  rcases pulseLoop_cases (o := o) (done := afterSelect o) (e := e) rfl with ⟨_, h⟩ | ⟨_, h⟩
  · rcases afterSelect_cases o e with ⟨_, h'⟩ | ⟨_, h'⟩
    · exact ⟨_, h.trans h'⟩
    · exact ⟨_, h.trans h'⟩
  · exact ⟨_, h⟩

/-- Only at SHIFTIN's last call, where the sample is used, can an operation fail to go on (R191, log 12). -/
theorem engineStep_goes_on (hlast : ∀ o, ¬ LastCall o e) : ∃ t, engineStep e = .next t := by
  cases hs : e.seq with
  | idle => exact ⟨e, by simp only [engineStep, hs]⟩
  | construct call => exact ⟨_, engineStep_construct hs⟩
  | teardown call => exact ⟨_, engineStep_teardown hs⟩
  | select call o =>
    rw [engineStep_select hs]
    cases call with
    | poll => exact waitReady_goes_on pulseLoop_goes_on
    | rise => exact ⟨_, rfl⟩
    | fall => exact pulseLoop_goes_on
  | shiftIn call o =>
    rw [engineStep_shiftIn hs]
    cases call with
    | poll => exact waitReady_goes_on (k := fun t => .next (t.clearAcc o)) ⟨_, rfl⟩
    | rise | sample | plainRise => exact ⟨_, rfl⟩
    | fall =>
      rcases afterSample_cases (o := o) (done := afterShiftIn o) (e := e.pinWrite .low) rfl with
        ⟨_, h⟩ | ⟨_, _, h⟩ | ⟨hb, h0, _⟩
      · exact ⟨_, h⟩
      · exact ⟨_, h⟩
      · exact absurd (.inr ⟨h0, hs, hb.trans h0⟩) (hlast o)
    | plainFall =>
      exact ⟨_, afterPlain_more (e := e.pinWrite .low) fun hb => hlast o (.inl ⟨hs, hb⟩)⟩

/-- The place of a last call is one of SHIFTIN, where the owner's part of the invariant holds. -/
theorem LastCall.ownerInv (hlast : LastCall o e) (h : e.Inv) : OwnerInv o e := by
  rcases hlast with ⟨hs, _⟩ | ⟨_, hs, _⟩
  · exact ((inv_shiftIn .plainFall hs).1 h).1.owner
  · exact ((inv_shiftIn .fall hs).1 h).1.owner

/-- No operation under way has a count of 0: a read is still to be made, and there are no more of those
than the count (R160, R170). -/
theorem ownerInv_count_ne_zero {ch : Channel} {n : p.Count}
    (h : OwnerInv (.calibrate ch n) e ∨ OwnerInv (.avgRead ch n) e) : n ≠ 0 := by
  have hcount : 1 ≤ n.toNat := by
    rcases h with ⟨hone, hle, _⟩ | ⟨hone, hle, _⟩
    · exact hone.trans hle
    · exact hone.trans hle
  rintro rfl
  simp at hcount

/-- The use of a sample faults only for a count of 0, in CALIBRATE or AVGREAD (R162, R172). -/
theorem afterShiftIn_fault (h : afterShiftIn o e = .fault f) :
    ∃ ch, o = .calibrate ch 0 ∨ o = .avgRead ch 0 := by
  cases o with
  | alone | readRaw => cases h
  | readCal ch =>
    rw [afterShiftIn] at h
    rcases calibratedThen_cases h with ⟨_, h⟩ | ⟨_, h⟩ <;> cases h
  | calibrate ch n =>
    obtain ⟨rfl, _⟩ := calibrateLoop_fault_count h
    exact ⟨ch, .inl rfl⟩
  | avgRead ch n =>
    rw [afterShiftIn] at h
    rcases calibratedThen_cases h with ⟨_, h⟩ | ⟨_, h⟩
    · obtain ⟨rfl, _⟩ := avgReadLoop_fault_count h.symm
      exact ⟨ch, .inr rfl⟩
    · cases h

/-- In a state of the invariant the step of an operation under way does not fault (R193). -/
theorem step_not_fault_of_busy (hb : e.seq ≠ .idle) (hinv : e.Inv) : step ⟨p, e⟩ ≠ .fault f := by
  intro h
  by_cases hlast : ∃ o, LastCall o e
  · obtain ⟨o, hlast⟩ := hlast
    have howner := hlast.ownerInv hinv
    rw [step_lastCall hlast, lift_fault_iff] at h
    obtain ⟨ch, rfl | rfl⟩ := afterShiftIn_fault h
    · exact ownerInv_count_ne_zero (.inl howner) rfl
    · exact ownerInv_count_ne_zero (.inr howner) rfl
  · obtain ⟨t, ht⟩ := engineStep_goes_on (not_exists.1 hlast)
    rw [step_of_busy hb, ht] at h
    cases h

/-! ## The statements -/

/-- Settles O45: an operation under way does not fault, and at the issue the count that faults is the
decoded operand, which fits its field. -/
theorem onlyCountZeroFaults : Obligations.OnlyCountZeroFaults := by
  unfold Obligations.OnlyCountZeroFaults
  intro p e f hinv h
  rcases step_cases h with ⟨hb, _⟩ | ⟨_, _, hr⟩ | ⟨w, rest, i, hi, hp, hd, hr⟩ | ⟨_, _, _, _, _, _, hr⟩
  · exact absurd h (step_not_fault_of_busy hb hinv)
  · cases hr
  · obtain ⟨hf, ch, n, hzero, rfl | rfl⟩ := exec_fault hr.symm
    · obtain rfl := count_eq_zero (Instr.wellFormed_calibrate.1 (decode_wellFormed hd)) hzero
      exact ⟨hf, hi, w, rest, ch, hp, .inl hd⟩
    · obtain rfl := count_eq_zero (Instr.wellFormed_avgRead.1 (decode_wellFormed hd)) hzero
      exact ⟨hf, hi, w, rest, ch, hp, .inr hd⟩
  · cases hr

/-- Settles O18: the check of R196 fails, and CONSTRUCT has its own, which is the other way round. -/
theorem wrongLifecycleIsRefused : Obligations.WrongLifecycleIsRefused := by
  unfold Obligations.WrongLifecycleIsRefused
  intro p e i hs
  refine ⟨fun hl hi => ?_, ?_⟩
  · obtain ⟨k, hk⟩ := exec_eq_lift_whenLive hi e
    rw [hk, whenLive_of_not_live hs hl, lift_refused]
  · rintro hl ⟨d, c, rfl⟩
    exact exec_construct_of_live hs hl d c

end Sys2Proof.Machine
end

section
/-! # Power-on (spec 70)

The power-on engine is one the general laws of the idle engine and of the lifecycle check speak of: HOST
has no command for it, and it is not LIVE (R220). -/

namespace Sys2Proof.Machine

/-- At power-on no operation is under way and the program is empty (R45, R220). -/
theorem Engine.powerOn_final (p : Params) : (Engine.powerOn p).Final := ⟨rfl, rfl⟩

/-- At power-on the engine is UNBUILT, where the lifecycle check of R196 fails (R45, R220). -/
theorem Engine.powerOn_not_live (p : Params) : (Engine.powerOn p).life ≠ .live := nofun

/-- Settles O13: the power-on engine is final, so it stays by O8, and idle and not LIVE, so O18 refuses
every command but CONSTRUCT. -/
theorem powerOnAwaitsConstruct : Obligations.PowerOnAwaitsConstruct := by
  unfold Obligations.PowerOnAwaitsConstruct
  refine ⟨rfl, fun p => ⟨rfl, (Engine.powerOn_final p).1, rfl, ?_, ?_⟩⟩
  · exact fun k => idleEngineStays p _ k (Engine.powerOn_final p)
  · exact fun i => (wrongLifecycleIsRefused p _ i (Engine.powerOn_final p).1).1
      (Engine.powerOn_not_live p)

end Sys2Proof.Machine
end
